-- ==== Sys2Proof/Word.lean ====
section
/-! DEFINITION. The block's word types (R16, R17): a word is 32 bits, a byte 8 bits, `Bytes` a finite sequence of bytes. -/

namespace Sys2Proof

/-- R17: an 8-bit unsigned value. -/
abbrev Byte := BitVec 8

/-- R16: a word is 32 bits; bit 0 is the least significant bit. -/
abbrev Word := BitVec 32

/-- R17: a finite sequence of bytes; `|b|` is `b.length`, `b[i]` its element `i` from 0. -/
abbrev Bytes := List Byte

end Sys2Proof
end

