-- ==== Sys2Proof/Config.lean ====
section
/-! DEFINITION. The constants contract (R13), and the values the spec leaves open (R14, R45, R66, R72, R234, R261) as
constants with no body, so that nothing can be proved of what they are. -/

namespace Sys2Proof.Config

/-- R13: `BLOCK_SIZE`, in bytes. -/
abbrev blockSize : Nat := 255
/-- R13: `IMAGE_WIDTH`, in pixels. -/
abbrev imageWidth : Nat := 85
/-- R13: `BYTES_PER_PIXEL` (R, G, B). -/
abbrev bytesPerPixel : Nat := 3
/-- R13: `KEY_BYTES` (256 bits). -/
abbrev keyBytes : Nat := 32
/-- R13: `NONCE_BYTES` (96 bits). -/
abbrev nonceBytes : Nat := 12
/-- R13: `ARTIFACT_BYTES` = `KEY_BYTES` + `NONCE_BYTES`. -/
abbrev artifactBytes : Nat := 44
/-- R14: the default of `BUF_SIZE`. -/
abbrev bufSizeDefault : Nat := 65536
/-- R14: the largest `BUF_SIZE`, 2^20. -/
abbrev bufSizeMax : Nat := 1048576

/-- R66, R99: the bytes of bus space one block takes up, 2^21, the range of the 21-bit offsets. -/
abbrev blockSpan : Nat := 2097152

/-- R66: `BASE` is OPEN, aligned to 2^21 in a bus space of 32-bit addresses (R60); this is which of the 2^11 aligned
addresses it is, free (log 17). -/
opaque basePage : BitVec 11

/-- R66: the `BASE` of the block that `State.reset` describes: free, aligned (log 17). -/
def base : Word := BitVec.ofNat 32 (blockSpan * basePage.toNat)

/-- R14: `TAG_LEN` is OPEN, 1 to 255; this is `TAG_LEN` - 1, free (log 1). -/
opaque tagLenPred : Fin 255

/-- R14: the `TAG_LEN` of the block that `State.reset` describes: free, between 1 and 255 (log 1). -/
def tagLen : Nat := tagLenPred.val + 1

/-- R14, R160: an unconstrained function of `TAG_LEN`, key, nonce and plaintext. `Machine.aeadSeal` restricts it to
the laws of R160 and R161 (log 2). -/
opaque aeadSealRaw (tagLen : Nat) (key : Vector Byte 32) (nonce : Vector Byte 12) (pt : Bytes) : Option Bytes

/-- R14, R161: an unconstrained function of `TAG_LEN`, key, nonce and ciphertext. `Machine.aeadOpen` restricts it to
the law of R161 (log 2). -/
opaque aeadOpenRaw (tagLen : Nat) (key : Vector Byte 32) (nonce : Vector Byte 12) (ct : Bytes) : Option Bytes

/-- R45: the answer of the entropy source to draw number `draw` of `n` bytes: any `n` bytes, or `none` for `fail`
(log 3). -/
opaque entropy (draw n : Nat) : Option (Vector Byte n)

/-- R234: the byte a `Havoc` leaves at `offset` of its range. It may depend on which draw it is, on what the command
had read, and on what the range held before (log 4). -/
opaque havocByte (draw : Nat) (input old : Bytes) (offset : Nat) : Byte

/-- R261: what reset number `epoch` left in the buffer byte at `addr` (log 5). -/
opaque resetByte (epoch addr : Nat) : Byte

/-- R72: how many accesses that do not hold come between a `CMD` write and the engine's step; finite (weak
fairness) and not bounded by any rule (log 7). -/
opaque pollBudget (draw : Nat) : Nat

end Sys2Proof.Config
end

