-- ==== Sys2Proof/Syntax.lean ====
section
/-! DEFINITION. The commands of the block (R93, `opcode_table.json`), one constructor per row. -/

namespace Sys2Proof

/-- R93: the ten commands. `N` is the block-size argument of `PAD` and `UNPAD` (R92); no other command has an
operand in its word. -/
inductive Instr where
  /-- `PAD #n` (R123). -/
  | pad (n : Byte)
  /-- `UNPAD #n` (R124). -/
  | unpad (n : Byte)
  /-- `ENCODE` (R143). -/
  | encode
  /-- `DECODE` (R146). -/
  | decode
  /-- `GENERATE` (R165). -/
  | generate
  /-- `FROM_KEY` (R166). -/
  | fromKey
  /-- `FROM_ARTIFACT` (R167). -/
  | fromArtifact
  /-- `EXPORT` (R168). -/
  | exportArtifact
  /-- `ENCRYPT` (R180). -/
  | encrypt
  /-- `DECRYPT` (R181). -/
  | decrypt
deriving DecidableEq, Repr

end Sys2Proof
end

