-- ==== Sys2Proof/Machine/State.lean ====
section
/-! DEFINITION. The state of the block as one record of plain data (R48), with the values after reset (R260, R261).
The fields below `params` are the model's own (INVENTORY.md, ## State). -/

namespace Sys2Proof.Machine

/-- R220: the `STATUS.ERR` codes the block produces. Codes 10 to 15 are reserved and never produced, so they have no
constructor (log 12). -/
inductive ErrCode where
  | ok | illegalCommand | noCipher | length | bounds | paddingError | corruptImage | authenticationError
  | cipherHardError | entropyError
deriving DecidableEq, Repr

/-- R221: the `STATUS.CAUSE` codes the block produces. Codes 14 and 15 are reserved and never produced, so they have
no constructor (log 12). -/
inductive Cause where
  | none | width | height | srcRange | dstRange | overlap | zeroCount | countTooLarge | filler | badOpcode
  | reservedBits | badN | shortInput | tagMismatch
deriving DecidableEq, Repr

/-- R39: `CIPHER_STATUS.ORIGIN`, which command constructed the current cipher. -/
inductive Origin where
  | none | generated | keyMaterial | artifact
deriving DecidableEq, Repr

/-- R40 to R42: the one cipher slot with its `CIPHER_STATUS` fields (R39). -/
structure CipherSlot where
  valid    : Bool
  origin   : Origin
  encCount : Byte
  key      : Vector Byte 32
  nonce    : Vector Byte 12
deriving DecidableEq, Repr

/-- R14, R66: the parameters of one block. No step changes them (log 1, 17). -/
structure Params where
  base        : Word
  bufSize     : Nat
  tagLen      : Nat
  fillerCheck : Bool
deriving DecidableEq, Repr

/-- R64: the width of a host access. -/
inductive Width where
  | w8 | w16 | w32
deriving DecidableEq, Repr

/-- R99: one bus transaction. `offset` is the 21-bit offset from `BASE`; of `data` the low `width` bits count
(log 13). -/
inductive Access where
  | read (width : Width) (offset : BitVec 21)
  | write (width : Width) (offset : BitVec 21) (data : Word)
deriving DecidableEq, Repr

/-- What comes to the block from outside, next in order (log 14, 19). -/
inductive Input where
  /-- One host bus transaction (R99). -/
  | bus (access : Access)
  /-- R102 `WAIT`: read `STATUS` until bit 0 of the value read is 0. -/
  | wait
  /-- R205: read `STATUS` until it is not busy; if `ERR` ≠ 0 leave out the next `skip` inputs, the rest of the
  sequence. -/
  | stopOnError (skip : Nat)
  /-- R203: read `RESULT_LEN` as `m`, then write `tmp` to `SRC_ADDR` and `m` to `SRC_LEN`. -/
  | sourceFromResult (tmp : Word)
  /-- R260: the reset input. -/
  | reset
deriving DecidableEq, Repr

/-- What the bus answers the host. -/
inductive Reply where
  /-- The data of a read, widened with zeros to 32 bits (log 13). -/
  | data (value : Word)
  /-- A write was performed. -/
  | done
  /-- R64, R240: a bus error. A read returned no value and a write changed nothing. -/
  | busError
deriving DecidableEq, Repr

/-- R43: buffer memory as the bytes written since the last reset, in one canonical form (`Memory.wf`): addresses
strictly rising. A byte not listed has not been written since the last reset and holds that reset's free draw
(R261, log 5). -/
abbrev Memory := List Host.Cell

/-- R48: the state. -/
structure State where
  srcAddr   : Word
  srcLen    : Word
  dstAddr   : Word
  resultLen : Word
  gridW     : Word
  gridH     : Word
  done      : Bool
  err       : ErrCode
  cause     : Cause
  cipher    : CipherSlot
  buf       : Memory
  inflight  : Option Word
  busFault  : Bool
  params    : Params
  bufEpoch   : Nat
  draws      : Nat
  pollBudget : Nat
  entropyIn  : List (Option Bytes)
  inputs     : List Input
  replies    : List Reply
deriving DecidableEq, Repr

/-- There is no fault: every command ends with success or an error code in `STATUS`, and a bus error is recorded in
the state and answered to the host while the block goes on (R64, R238, R241; log 8). Nobody raises one. -/
inductive Fault where
deriving DecidableEq, Repr

/-- Why a command has no meaning in the model. -/
inductive Refusal where
  /-- Raised by `exec` for a command whose meaning is not written yet. No arm raises it: all ten commands have their
  meaning. Safe. -/
  | notModelled (mnemonic : String)
deriving DecidableEq, Repr

/-- R260: the empty, zeroised cipher slot. -/
def CipherSlot.empty : CipherSlot where
  valid    := false
  origin   := .none
  encCount := 0
  key      := Vector.replicate 32 0
  nonce    := Vector.replicate 12 0

/-- R14, R66: the parameters of this hardware: the defaults the spec states, and free `BASE` and `TAG_LEN` (log 1,
17). -/
def Params.default : Params where
  base        := Config.base
  bufSize     := Config.bufSizeDefault
  tagLen      := Config.tagLen
  fillerCheck := true

/-- R260, R261: the block right after power-on reset. The model's own fields start as log 6 says. -/
def State.reset : State where
  srcAddr   := 0
  srcLen    := 0
  dstAddr   := 0
  resultLen := 0
  gridW     := 0
  gridH     := 0
  done      := false
  err       := .ok
  cause     := .none
  cipher    := CipherSlot.empty
  buf       := []
  inflight  := none
  busFault  := false
  params    := Params.default
  bufEpoch   := 0
  draws      := 1
  pollBudget := 0
  entropyIn  := []
  inputs     := []
  replies    := []

end Sys2Proof.Machine
end

