-- ==== Sys2Proof/Machine/Ops.lean ====
section
/-! DEFINITION. The operations every command is built from (R18): reading and writing buffer memory, free draws, the
AEAD functions, constructing the cipher slot, and the two ways a command ends (R236, R237). -/

namespace Sys2Proof.Machine

/-! ### Buffer memory -/

/-- The canonical form of buffer memory: addresses strictly rising, so that no address is listed twice (log 5). -/
abbrev Memory.wf (m : Memory) : Prop := m.Pairwise fun c d => c.1 < d.1

/-- Every listed address is an address of a buffer of `size` bytes (R43). -/
abbrev Memory.within (m : Memory) (size : Nat) : Prop := ∀ c ∈ m, c.1 < size

/-- The byte last written at address `a`; `none` if none has been since the last reset. -/
def Memory.lookup : Memory → Nat → Option Byte
  | [], _ => none
  | c :: m, a => if c.1 = a then some c.2 else Memory.lookup m a

/-- The cells that hold `bs` from address `a` on. -/
def Memory.cells (a : Nat) : Bytes → Memory
  | [] => []
  | b :: bs => (a, b) :: Memory.cells (a + 1) bs

/-- Memory with the bytes `bs` at `a`, `a + 1`, …: the listed cells below the range, the new cells, the listed cells
above it. -/
def Memory.store (m : Memory) (a : Nat) (bs : Bytes) : Memory :=
  match bs with
  | [] => m
  | b :: bs' =>
    m.filter (fun c => decide (c.1 < a)) ++ Memory.cells a (b :: bs')
      ++ m.filter (fun c => decide (a + (bs'.length + 1) ≤ c.1))

/-- R73: one byte of `BUF`: the last write to it, or what the last reset left there (R261). -/
def State.readByte (s : State) (a : Nat) : Byte :=
  match Memory.lookup s.buf a with
  | some b => b
  | none => Config.resetByte s.bufEpoch a

/-- R18: `MemRead(addr, n)`. -/
def memRead (s : State) (a n : Nat) : Bytes := (List.range n).map fun i => s.readByte (a + i)

/-- R18: `MemRead(addr, n)` as `n` bytes of a register of the cipher slot. -/
def memReadVector (s : State) (a n : Nat) : Vector Byte n :=
  Vector.mk (memRead s a n).toArray (by simp [memRead])

/-- R18: `MemWrite(addr, |v|, v)`. -/
def memWrite (a : Nat) (bs : Bytes) (s : State) : State := { s with buf := Memory.store s.buf a bs }

/-! ### Free draws -/

/-- The bytes of a havocked range (log 4). -/
def havocBytes (draw : Nat) (input old : Bytes) (n : Nat) : Bytes :=
  (List.range n).map (Config.havocByte draw input old)

/-- R18, R234: `Havoc(addr, n)` by a command that had read `input`: every byte of the range takes a free value. -/
def havoc (input : Bytes) (a n : Nat) (s : State) : State :=
  memWrite a (havocBytes s.draws input (memRead s a n) n) { s with draws := s.draws + 1 }

/-- An answer of the entropy source as `n` bytes; an answer of another length is no answer, `fail` (log 3). -/
def entropyAnswer (n : Nat) (answer : Option Bytes) : Option (Vector Byte n) :=
  match answer with
  | none => none
  | some bs => if h : bs.length = n then some (Vector.mk bs.toArray (by simp [h])) else none

/-- R18, R45: `Entropy(n)`: `n` bytes or `none` for `fail`, each call a fresh draw. The next answer the outside has
settled is taken; where there is none, the answer is free (log 3). -/
def drawEntropy (n : Nat) (s : State) : Option (Vector Byte n) × State :=
  match s.entropyIn with
  | answer :: rest => (entropyAnswer n answer, { s with entropyIn := rest })
  | [] => (Config.entropy s.draws n, { s with draws := s.draws + 1 })

/-! ### The AEAD functions -/

/-- The restriction of any function to the length law of R161. -/
def lawfulOpen (openRaw : Nat → Vector Byte 32 → Vector Byte 12 → Bytes → Option Bytes)
    (tagLen : Nat) (key : Vector Byte 32) (nonce : Vector Byte 12) (ct : Bytes) : Option Bytes :=
  match openRaw tagLen key nonce ct with
  | none => none
  | some pt => if ct.length = pt.length + tagLen then some pt else none

/-- The restriction of any function to the length law of R160 and, against `opened`, the correctness law of R161. -/
def lawfulSeal (sealRaw opened : Nat → Vector Byte 32 → Vector Byte 12 → Bytes → Option Bytes)
    (tagLen : Nat) (key : Vector Byte 32) (nonce : Vector Byte 12) (pt : Bytes) : Option Bytes :=
  match sealRaw tagLen key nonce pt with
  | none => none
  | some ct => if ct.length = pt.length + tagLen ∧ opened tagLen key nonce ct = some pt then some ct else none

/-- R161: `AEAD_OPEN` of a block with tag length `tagLen` (log 2). -/
def aeadOpen (tagLen : Nat) (key : Vector Byte 32) (nonce : Vector Byte 12) (ct : Bytes) : Option Bytes :=
  lawfulOpen Config.aeadOpenRaw tagLen key nonce ct

/-- R160: `AEAD_SEAL` of a block with tag length `tagLen` (log 2). -/
def aeadSeal (tagLen : Nat) (key : Vector Byte 32) (nonce : Vector Byte 12) (pt : Bytes) : Option Bytes :=
  lawfulSeal Config.aeadSealRaw aeadOpen tagLen key nonce pt

/-! ### The cipher slot -/

/-- R164: a successful construction replaces the slot whole. -/
def constructCipher (o : Origin) (key : Vector Byte 32) (nonce : Vector Byte 12) (s : State) : State :=
  { s with cipher := { valid := true, origin := o, encCount := 0, key := key, nonce := nonce } }

/-- R180: `min(ENC_COUNT + 1, 255)`. -/
def saturatingSucc (c : Byte) : Byte := if c = 255 then 255 else c + 1

/-- R180: a successful `ENCRYPT` counts itself. -/
def countEncrypt (s : State) : State :=
  { s with cipher := { s.cipher with encCount := saturatingSucc s.cipher.encCount } }

/-- R169: the key artifact, key then nonce. -/
def keyArtifact (c : CipherSlot) : Bytes := c.key.toList ++ c.nonce.toList

/-! ### How a command ends -/

/-- R72: the completion of a command: `inflight <- 0` (so `BUSY` = 0, R44) and `DONE <- 1`. -/
def completeCommand (s : State) : State := { s with inflight := none, done := true }

/-- R236: `raise E(c)`. The block's only exception: there is no trap entry and no return (R238). -/
def raiseError (e : ErrCode) (c : Cause) (s : State) : State :=
  completeCommand { s with err := e, cause := c, resultLen := 0 }

/-- R237: `finish(len)`. -/
def finishCommand (len : Nat) (s : State) : State :=
  completeCommand { s with err := .ok, cause := .none, resultLen := BitVec.ofNat 32 len }

end Sys2Proof.Machine
end

