-- ==== Sys2Proof/WellFormed.lean ====
section
/-! DEFINITION. Which terms of `Instr` are commands of the block. -/

namespace Sys2Proof

/-- R92: `N` is 1 to 255 for `PAD` and `UNPAD`; `N` = 0 is illegal for them. Every other command carries no field
that could be out of range. -/
def Instr.wellFormed : Instr → Bool
  | .pad n => n != 0
  | .unpad n => n != 0
  | .encode => true
  | .decode => true
  | .generate => true
  | .fromKey => true
  | .fromArtifact => true
  | .exportArtifact => true
  | .encrypt => true
  | .decrypt => true

end Sys2Proof
end

