-- ==== Sys2Proof/Machine/Operands.lean ====
section
/-! DEFINITION. The operands of each command (R97, R98) and the checks made on them before any byte is read or any
entropy drawn: steps 1 to 6 of R230. -/

namespace Sys2Proof.Machine

/-- R98: a register value as an unbounded natural. -/
def State.src (s : State) : Nat := s.srcAddr.toNat
/-- R98: a register value as an unbounded natural. -/
def State.len (s : State) : Nat := s.srcLen.toNat
/-- R98: a register value as an unbounded natural. -/
def State.dst (s : State) : Nat := s.dstAddr.toNat

/-- R141: the number of rows of an encoding of `len` bytes. -/
def rowCount (len : Nat) : Nat := len / Config.blockSize + 1

/-- R97: how many bytes a command reads at `SRC_ADDR`; `none` for a command with no source. -/
def sourceLength (i : Instr) (s : State) : Option Nat :=
  match i with
  | .pad _ => some s.len
  | .unpad n => some n.toNat
  | .encode => some s.len
  | .decode => some (Config.blockSize * s.gridH.toNat)
  | .generate => none
  | .fromKey => some Config.keyBytes
  | .fromArtifact => some Config.artifactBytes
  | .exportArtifact => none
  | .encrypt => some s.len
  | .decrypt => some s.len

/-- R232: `OUTMAX`, the most bytes a command can write at `DST_ADDR`; `none` for a command with no destination. -/
def outMax (i : Instr) (s : State) : Option Nat :=
  match i with
  | .pad n => some n.toNat
  | .unpad n => some (n.toNat - 1)
  | .encode => some (Config.blockSize * rowCount s.len)
  | .decode => some (Config.blockSize * s.gridH.toNat - 1)
  | .generate => none
  | .fromKey => none
  | .fromArtifact => none
  | .exportArtifact => some Config.artifactBytes
  | .encrypt => some (s.len + s.params.tagLen)
  | .decrypt => some (s.len - s.params.tagLen)

/-- R231: `check_src(s, L)`. -/
def checkSource (size a len : Nat) : Option Cause := if size < a + len then some .srcRange else none

/-- R232: `check_dst(d, M)`. -/
def checkDest (size d m : Nat) : Option Cause := if size < d + m then some .dstRange else none

/-- R233: `check_overlap(s, L, d, M)`. -/
def checkOverlap (a len d m : Nat) : Option Cause :=
  if 0 < len ∧ 0 < m ∧ a < d + m ∧ d < a + len then some .overlap else none

/-- R230 steps 4 to 6: the first bound a command's ranges break. -/
def boundsCause (i : Instr) (s : State) : Option Cause :=
  match sourceLength i s, outMax i s with
  | none, none => none
  | some l, none => checkSource s.params.bufSize s.src l
  | none, some m => checkDest s.params.bufSize s.dst m
  | some l, some m =>
    (checkSource s.params.bufSize s.src l).or
      ((checkDest s.params.bufSize s.dst m).or (checkOverlap s.src l s.dst m))

/-- R230 step 4 to 6 as an error. -/
def boundsError (i : Instr) (s : State) : Option (ErrCode × Cause) := (boundsCause i s).map fun c => (.bounds, c)

/-- R230 step 1, as far as a command that has been decoded can fail it: `N` = 0 for `PAD` and `UNPAD` (R92, log 18). -/
def operandError (i : Instr) : Option (ErrCode × Cause) :=
  if i.wellFormed then none else some (.illegalCommand, .badN)

/-- R230 step 2: the commands that need a constructed cipher. -/
def cipherError (i : Instr) (s : State) : Option (ErrCode × Cause) :=
  match i with
  | .exportArtifact | .encrypt | .decrypt => if s.cipher.valid then none else some (.noCipher, .none)
  | .pad _ | .unpad _ | .encode | .decode | .generate | .fromKey | .fromArtifact => none

/-- An error if a condition holds. -/
def errorIf (p : Bool) (e : ErrCode) (c : Cause) : Option (ErrCode × Cause) := if p then some (e, c) else none

/-- R230 step 3: the length a command requires (R123, R124, R166, R167), or for `DECODE` the dimensions (R145). -/
def shapeError (i : Instr) (s : State) : Option (ErrCode × Cause) :=
  match i with
  | .pad n => errorIf (n.toNat < s.len) .length .none
  | .unpad n => errorIf (s.len != n.toNat) .length .none
  | .fromKey => errorIf (s.len != Config.keyBytes) .length .none
  | .fromArtifact => errorIf (s.len != Config.artifactBytes) .length .none
  | .decode =>
    (errorIf (s.gridW.toNat != Config.imageWidth) .corruptImage .width).or
      (errorIf (s.gridH.toNat == 0) .corruptImage .height)
  | .encode | .generate | .exportArtifact | .encrypt | .decrypt => none

/-- R230 steps 1 to 6: the first error that the registers alone decide. -/
def registerError (i : Instr) (s : State) : Option (ErrCode × Cause) :=
  (operandError i).or ((cipherError i s).or ((shapeError i s).or (boundsError i s)))

/-- A command whose registers are in order runs `body`; otherwise it ends with the first error in the order of R230
and has no other effect (R236). -/
def guarded (i : Instr) (body : State → State) (s : State) : State :=
  match registerError i s with
  | some (e, c) => raiseError e c s
  | none => body s

end Sys2Proof.Machine
end

