-- ==== Sys2Proof/Machine/Cipher.lean ====
section
/-! DEFINITION. The Cipher unit: constructing the cipher slot, exporting it, and authenticated encryption and
decryption (R164 to R170, R180, R181). Associated data is empty and the ciphertext opaque (R163). -/

namespace Sys2Proof.Machine

/-- R165: `GENERATE`: the key draw before the nonce draw, and no nonce draw after a failed key draw. -/
def generateBody (s : State) : State :=
  match drawEntropy Config.keyBytes s with
  | (none, s1) => raiseError .entropyError .none s1
  | (some key, s1) =>
    match drawEntropy Config.nonceBytes s1 with
    | (none, s2) => raiseError .entropyError .none s2
    | (some nonce, s2) => finishCommand 0 (constructCipher .generated key nonce s2)

/-- R165: `GENERATE`. -/
def execGenerate (s : State) : Host.Outcome State Fault Refusal := .next (guarded .generate generateBody s)

/-- R166: `FROM_KEY` once its checks have passed. -/
def fromKeyBody (s : State) : State :=
  match drawEntropy Config.nonceBytes s with
  | (none, s1) => raiseError .entropyError .none s1
  | (some nonce, s1) =>
    finishCommand 0 (constructCipher .keyMaterial (memReadVector s s.src Config.keyBytes) nonce s1)

/-- R166: `FROM_KEY`. -/
def execFromKey (s : State) : Host.Outcome State Fault Refusal := .next (guarded .fromKey fromKeyBody s)

/-- R167: `FROM_ARTIFACT` once its checks have passed: key, then nonce (R169). -/
def fromArtifactBody (s : State) : State :=
  finishCommand 0
    (constructCipher .artifact (memReadVector s s.src Config.keyBytes)
      (memReadVector s (s.src + Config.keyBytes) Config.nonceBytes) s)

/-- R167: `FROM_ARTIFACT`. -/
def execFromArtifact (s : State) : Host.Outcome State Fault Refusal :=
  .next (guarded .fromArtifact fromArtifactBody s)

/-- R168: `EXPORT` once its checks have passed. -/
def exportBody (s : State) : State :=
  finishCommand Config.artifactBytes (memWrite s.dst (keyArtifact s.cipher) s)

/-- R168: `EXPORT`. -/
def execExport (s : State) : Host.Outcome State Fault Refusal := .next (guarded .exportArtifact exportBody s)

/-- R180: `ENCRYPT` once its checks have passed. -/
def encryptBody (s : State) : State :=
  match aeadSeal s.params.tagLen s.cipher.key s.cipher.nonce (memRead s s.src s.len) with
  | none =>
    raiseError .cipherHardError .none
      (havoc (keyArtifact s.cipher ++ memRead s s.src s.len) s.dst (s.len + s.params.tagLen) s)
  | some ct => finishCommand (s.len + s.params.tagLen) (countEncrypt (memWrite s.dst ct s))

/-- R180: `ENCRYPT`. -/
def execEncrypt (s : State) : Host.Outcome State Fault Refusal := .next (guarded .encrypt encryptBody s)

/-- R181: `DECRYPT` once its checks have passed. -/
def decryptBody (s : State) : State :=
  if s.len < s.params.tagLen then raiseError .authenticationError .shortInput s
  else
    match aeadOpen s.params.tagLen s.cipher.key s.cipher.nonce (memRead s s.src s.len) with
    | none =>
      raiseError .authenticationError .tagMismatch
        (havoc (keyArtifact s.cipher ++ memRead s s.src s.len) s.dst (s.len - s.params.tagLen) s)
    | some pt => finishCommand (s.len - s.params.tagLen) (memWrite s.dst pt s)

/-- R181: `DECRYPT`. -/
def execDecrypt (s : State) : Host.Outcome State Fault Refusal := .next (guarded .decrypt decryptBody s)

end Sys2Proof.Machine
end

