-- ==== Sys2Proof/Machine/Padding.lean ====
section
/-! DEFINITION. The Padding unit: the pure functions of R121 and R122 and the commands `PAD` and `UNPAD`. -/

namespace Sys2Proof.Machine

/-- R121: `pad_n(d)`. -/
def padBytes (n : Nat) (d : Bytes) : Bytes :=
  if d.length = n then d
  else d ++ List.replicate (n - d.length - 1) 0 ++ [BitVec.ofNat 8 (n - d.length)]

/-- R122: the pad count `k`, the block's last byte. -/
def padCount (n : Nat) (b : Bytes) : Nat := (b.getD (n - 1) 0).toNat

/-- R122: the filler bytes, `b[n - k .. n - 1)`. -/
def fillerBytes (n k : Nat) (b : Bytes) : Bytes := (b.take (n - 1)).drop (n - k)

/-- R122: `unpad_n(b)`. -/
def unpadBytes (fillerCheck : Bool) (n : Nat) (b : Bytes) : Except Cause Bytes :=
  if padCount n b = 0 then .error .zeroCount
  else if n < padCount n b then .error .countTooLarge
  else if fillerCheck && (fillerBytes n (padCount n b) b).any (fun x => x != 0) then .error .filler
  else .ok (b.take (n - padCount n b))

/-- R123: `PAD` once its checks have passed. -/
def padBody (n : Nat) (s : State) : State :=
  finishCommand n (memWrite s.dst (padBytes n (memRead s s.src s.len)) s)

/-- R123: `PAD #n`. -/
def execPad (n : Byte) (s : State) : Host.Outcome State Fault Refusal :=
  .next (guarded (.pad n) (padBody n.toNat) s)

/-- R124: `UNPAD` once its checks have passed. -/
def unpadBody (n : Nat) (s : State) : State :=
  match unpadBytes s.params.fillerCheck n (memRead s s.src n) with
  | .error c => raiseError .paddingError c (havoc (memRead s s.src n) s.dst (n - 1) s)
  | .ok r => finishCommand r.length (memWrite s.dst r s)

/-- R124: `UNPAD #n`. -/
def execUnpad (n : Byte) (s : State) : Host.Outcome State Fault Refusal :=
  .next (guarded (.unpad n) (unpadBody n.toNat) s)

end Sys2Proof.Machine
end

