-- ==== Sys2Proof/Machine/Codec.lean ====
section
/-! DEFINITION. The Codec unit: the pure functions of R142 and R144, the commands `ENCODE` and `DECODE`, and the pixel
view of a grid (R61, R62). -/

namespace Sys2Proof.Machine

/-- R142: `encode_bytes(x)`: the interior rows verbatim, then the padded terminal row. -/
def encodeBytes (x : Bytes) : Bytes :=
  x.take (Config.blockSize * (rowCount x.length - 1))
    ++ padBytes Config.blockSize (x.drop (Config.blockSize * (rowCount x.length - 1)))

/-- R144: `decode_bytes(g, H)`: every row but the last verbatim, the last one unpadded. -/
def decodeBytes (fillerCheck : Bool) (g : Bytes) (h : Nat) : Except Cause Bytes :=
  match unpadBytes fillerCheck Config.blockSize
      ((g.drop (Config.blockSize * (h - 1))).take Config.blockSize) with
  | .error c => .error c
  | .ok r => .ok (g.take (Config.blockSize * (h - 1)) ++ r)

/-- R143: `ENCODE` once its checks have passed. -/
def encodeBody (s : State) : State :=
  finishCommand (Config.blockSize * rowCount s.len)
    { memWrite s.dst (encodeBytes (memRead s s.src s.len)) s with
      gridW := BitVec.ofNat 32 Config.imageWidth
      gridH := BitVec.ofNat 32 (rowCount s.len) }

/-- R143: `ENCODE`. -/
def execEncode (s : State) : Host.Outcome State Fault Refusal := .next (guarded .encode encodeBody s)

/-- R146: `DECODE` once its checks have passed. -/
def decodeBody (s : State) : State :=
  let size := Config.blockSize * s.gridH.toNat
  match decodeBytes s.params.fillerCheck (memRead s s.src size) s.gridH.toNat with
  | .error c => raiseError .corruptImage c (havoc (memRead s s.src size) s.dst (size - 1) s)
  | .ok out => finishCommand out.length (memWrite s.dst out s)

/-- R146: `DECODE`. -/
def execDecode (s : State) : Host.Outcome State Fault Refusal := .next (guarded .decode decodeBody s)

/-- R19: one pixel, three channels. -/
structure Pixel where
  r : Byte
  g : Byte
  b : Byte
deriving DecidableEq, Repr

/-- R62: where channel `ch` (0 = R, 1 = G, 2 = B) of the pixel at row `r`, column `c` stands in a grid of width `w`
at `base`. -/
def pixelAddress (base w r c ch : Nat) : Nat := base + (r * w + c) * Config.bytesPerPixel + ch

/-- R62: the pixel at row `r`, column `c` of the grid of width `w` at `base`. -/
def readPixel (s : State) (base w r c : Nat) : Pixel where
  r := s.readByte (pixelAddress base w r c 0)
  g := s.readByte (pixelAddress base w r c 1)
  b := s.readByte (pixelAddress base w r c 2)

end Sys2Proof.Machine
end

