-- ==== Sys2Proof/Machine/Dispatch.lean ====
section
/-! DEFINITION. The engine's dispatch on the command (R93): one arm per row of the opcode table. -/

namespace Sys2Proof.Machine

def exec (i : Instr) (s : State) : Host.Outcome State Fault Refusal :=
  match i with
  | .pad n => Sys2Proof.Machine.execPad n s
  | .unpad n => Sys2Proof.Machine.execUnpad n s
  | .encode => Sys2Proof.Machine.execEncode s
  | .decode => Sys2Proof.Machine.execDecode s
  | .generate => Sys2Proof.Machine.execGenerate s
  | .fromKey => Sys2Proof.Machine.execFromKey s
  | .fromArtifact => Sys2Proof.Machine.execFromArtifact s
  | .exportArtifact => Sys2Proof.Machine.execExport s
  | .encrypt => Sys2Proof.Machine.execEncrypt s
  | .decrypt => Sys2Proof.Machine.execDecrypt s

end Sys2Proof.Machine
end

