-- ==== Sys2Proof/Decode.lean ====
section
/-! DEFINITION. The `CMD` word: its fields (R91), the decoder with the legality checks of R96 in their order, and the
encoder (R101). -/

namespace Sys2Proof

/-- R96, R221: why a word is no command. -/
inductive Illegal where
  /-- `BAD_OPCODE`: an `OPCODE` value that R93 does not assign. -/
  | badOpcode
  /-- `RESERVED_BITS`: bits [31:16] are not 0. -/
  | reservedBits
  /-- `BAD_N`: `N` = 0 for `PAD` or `UNPAD`, or `N` ≠ 0 for another opcode. -/
  | badN
deriving DecidableEq, Repr

/-- R91: `OPCODE`, bits [7:0]. -/
def cmdOpcode (w : Word) : Byte := w.extractLsb' 0 8

/-- R91: `N`, bits [15:8]. -/
def cmdN (w : Word) : Byte := w.extractLsb' 8 8

/-- R91: `RSVD`, bits [31:16]. -/
def cmdReserved (w : Word) : BitVec 16 := w.extractLsb' 16 16

/-- R92: a command that needs `N` from 1 to 255. -/
def withN (c : Byte → Instr) (n : Byte) : Except Illegal Instr :=
  if n = 0 then .error .badN else .ok (c n)

/-- R92: a command that needs `N` = 0. -/
def withoutN (c : Instr) (n : Byte) : Except Illegal Instr :=
  if n = 0 then .ok c else .error .badN

/-- R93: the command an opcode selects, waiting for `N`; `none` for an unassigned opcode (R95). -/
def selectCommand (op : Byte) : Option (Byte → Except Illegal Instr) :=
  match op.toNat with
  | 0x01 => some (withN .pad)
  | 0x02 => some (withN .unpad)
  | 0x03 => some (withoutN .encode)
  | 0x04 => some (withoutN .decode)
  | 0x10 => some (withoutN .generate)
  | 0x11 => some (withoutN .fromKey)
  | 0x12 => some (withoutN .fromArtifact)
  | 0x13 => some (withoutN .exportArtifact)
  | 0x14 => some (withoutN .encrypt)
  | 0x15 => some (withoutN .decrypt)
  | _ => none

/-- R96: the command a word stands for, or the first legality check it fails: opcode, reserved bits, `N`. -/
def decodeWord (w : Word) : Except Illegal Instr :=
  match selectCommand (cmdOpcode w) with
  | none => .error .badOpcode
  | some build => if cmdReserved w = 0 then build (cmdN w) else .error .reservedBits

/-- R93: the opcode of a command. -/
def Instr.opcode : Instr → Byte
  | .pad _ => 0x01
  | .unpad _ => 0x02
  | .encode => 0x03
  | .decode => 0x04
  | .generate => 0x10
  | .fromKey => 0x11
  | .fromArtifact => 0x12
  | .exportArtifact => 0x13
  | .encrypt => 0x14
  | .decrypt => 0x15

/-- R92: the `N` field of a command. -/
def Instr.fieldN : Instr → Byte
  | .pad n => n
  | .unpad n => n
  | .encode => 0
  | .decode => 0
  | .generate => 0
  | .fromKey => 0
  | .fromArtifact => 0
  | .exportArtifact => 0
  | .encrypt => 0
  | .decrypt => 0

/-- R91, R101: the word of a command: `N` in bits [15:8], `OPCODE` in bits [7:0], the reserved bits 0. -/
def encode (i : Instr) : Word := (i.fieldN.setWidth 32 <<< 8) ||| i.opcode.setWidth 32

/-- The command this decoder reads from a table row's word `w` of `nbits` bits, every bit above them 0. A `CMD` word
is exactly 32 bits (R90), so nothing longer is one. -/
def decodeTableWord (nbits w : Nat) : Option Instr :=
  let v := w % 2 ^ nbits
  if v < 2 ^ 32 then (decodeWord (BitVec.ofNat 32 v)).toOption else none

end Sys2Proof
end

