-- ==== Sys2Proof/Machine/Flags.lean ====
section
/-! DEFINITION. The words the host reads of the block's status and configuration (R24 to R28, R39, R220, R221). The
block has no arithmetic flags (R32). -/

namespace Sys2Proof.Machine

/-- R220: the number of an error. -/
def ErrCode.code : ErrCode → BitVec 4
  | .ok => 0
  | .illegalCommand => 1
  | .noCipher => 2
  | .length => 3
  | .bounds => 4
  | .paddingError => 5
  | .corruptImage => 6
  | .authenticationError => 7
  | .cipherHardError => 8
  | .entropyError => 9

/-- R221: the number of a cause. -/
def Cause.code : Cause → BitVec 4
  | .none => 0
  | .width => 1
  | .height => 2
  | .srcRange => 3
  | .dstRange => 4
  | .overlap => 5
  | .zeroCount => 6
  | .countTooLarge => 7
  | .filler => 8
  | .badOpcode => 9
  | .reservedBits => 10
  | .badN => 11
  | .shortInput => 12
  | .tagMismatch => 13

/-- R39: the number of an origin. -/
def Origin.code : Origin → BitVec 2
  | .none => 0
  | .generated => 1
  | .keyMaterial => 2
  | .artifact => 3

/-- R96, R221: the cause of a word that is no command. -/
def illegalCause : Illegal → Cause
  | .badOpcode => .badOpcode
  | .reservedBits => .reservedBits
  | .badN => .badN

/-- R28, R44: `STATUS.BUSY` equals `inflight` (log 11). -/
def State.busy (s : State) : Bool := s.inflight.isSome

/-- A field of value `v` whose least significant bit is bit `lo` of the word. -/
def fieldAt {n : Nat} (lo : Nat) (v : BitVec n) : Nat := v.toNat * 2 ^ lo

/-- R28, R221: the `STATUS` word: `CAUSE` [15:12], `ERR` [11:8], `DONE` [1], `BUSY` [0], the rest 0. -/
def statusWord (s : State) : Word :=
  BitVec.ofNat 32
    (fieldAt 12 s.cause.code + fieldAt 8 s.err.code + fieldAt 1 (BitVec.ofBool s.done)
      + fieldAt 0 (BitVec.ofBool s.busy))

/-- R39: the `CIPHER_STATUS` word: `ENC_COUNT` [15:8], `ORIGIN` [2:1], `VALID` [0], the rest 0. -/
def cipherStatusWord (s : State) : Word :=
  BitVec.ofNat 32
    (fieldAt 8 s.cipher.encCount + fieldAt 1 s.cipher.origin.code + fieldAt 0 (BitVec.ofBool s.cipher.valid))

/-- R24: `CONFIG0`: `NONCE_BYTES` [31:24], `KEY_BYTES` [23:16], `IMAGE_WIDTH` [15:8], `BLOCK_SIZE` [7:0]. -/
def config0Word : Word :=
  BitVec.ofNat 32
    (fieldAt 24 (BitVec.ofNat 8 Config.nonceBytes) + fieldAt 16 (BitVec.ofNat 8 Config.keyBytes)
      + fieldAt 8 (BitVec.ofNat 8 Config.imageWidth) + fieldAt 0 (BitVec.ofNat 8 Config.blockSize))

/-- R25: `CONFIG1`: `FILLER_CHECK` [16], `ARTIFACT_BYTES` [15:8], `TAG_LEN` [7:0], the rest 0. -/
def config1Word (p : Params) : Word :=
  BitVec.ofNat 32
    (fieldAt 16 (BitVec.ofBool p.fillerCheck) + fieldAt 8 (BitVec.ofNat 8 Config.artifactBytes)
      + fieldAt 0 (BitVec.ofNat 8 p.tagLen))

/-- R26: `BUFSIZE`. -/
def bufSizeWord (p : Params) : Word := BitVec.ofNat 32 p.bufSize

end Sys2Proof.Machine
end

