-- ==== Sys2Proof/Machine/Bus.lean ====
section
/-! DEFINITION. Host bus transactions (R47, R63, R64, R66, R67, R99): `BASE`, the register block, the buffer window, bus
errors and what the host is answered. -/

namespace Sys2Proof.Machine

/-- R64: the width of an access in bytes. -/
def Width.bytes : Width → Nat
  | .w8 => 1
  | .w16 => 2
  | .w32 => 4

/-- R23: the offsets of the registers. -/
abbrev offConfig0 : Nat := 0x000
/-- R23 -/
abbrev offConfig1 : Nat := 0x004
/-- R23 -/
abbrev offBufSize : Nat := 0x008
/-- R23 -/
abbrev offCmd : Nat := 0x00C
/-- R23 -/
abbrev offStatus : Nat := 0x010
/-- R23 -/
abbrev offSrcAddr : Nat := 0x014
/-- R23 -/
abbrev offSrcLen : Nat := 0x018
/-- R23 -/
abbrev offDstAddr : Nat := 0x01C
/-- R23 -/
abbrev offResultLen : Nat := 0x020
/-- R23 -/
abbrev offGridW : Nat := 0x024
/-- R23 -/
abbrev offGridH : Nat := 0x028
/-- R23 -/
abbrev offCipherStatus : Nat := 0x02C
/-- R66: the end of the register block. -/
abbrev registerEnd : Nat := 0x030
/-- R66: the start of the buffer window. -/
abbrev windowStart : Nat := 0x100000

/-! ### From a bus address to an offset -/

/-- R60, R66: an access of the host by its 32-bit bus address, before it is known which block it is for. -/
inductive AddressedAccess where
  | read (width : Width) (address : Word)
  | write (width : Width) (address : Word) (data : Word)
deriving DecidableEq, Repr

/-- R66: the bus address of an offset. -/
def Params.busAddress (p : Params) (offset : BitVec 21) : Word := p.base + offset.setWidth 32

/-- R66: the offset from `BASE` of a bus address, `none` outside the 2^21 bytes from `BASE` on (log 17). -/
def Params.offsetOf (p : Params) (address : Word) : Option (BitVec 21) :=
  if p.base.toNat ≤ address.toNat ∧ address.toNat < p.base.toNat + Config.blockSpan then
    some (BitVec.ofNat 21 (address.toNat - p.base.toNat))
  else none

/-- R66, R99: an addressed access as a transaction of this block, `none` if it is not for this block. -/
def Params.transaction (p : Params) : AddressedAccess → Option Access
  | .read width address => (p.offsetOf address).map (Access.read width)
  | .write width address v => (p.offsetOf address).map fun o => Access.write width o v

/-- R66, R248: of the accesses a host makes in its bus space, those that are for this block, in order. -/
def routeToBlock (p : Params) (accesses : List AddressedAccess) : List Input :=
  (accesses.filterMap p.transaction).map Input.bus

/-! ### What an offset reaches -/

/-- R66: what a legal access reaches. -/
inductive Target where
  /-- A register, by its offset. -/
  | register (offset : Nat)
  /-- Buffer memory, by its buffer address. -/
  | buffer (address : Nat)
deriving DecidableEq, Repr

/-- R64, R66, R67: the target of an access, or `none` for a bus error. Every byte of the access must be mapped
(log 9). -/
def accessTarget (p : Params) (width : Width) (offset : Nat) : Option Target :=
  if offset < registerEnd then
    if width = .w32 ∧ offset % 4 = 0 then some (.register offset) else none
  else if windowStart ≤ offset ∧ offset + width.bytes ≤ windowStart + p.bufSize then
    if offset % width.bytes = 0 then some (.buffer (offset - windowStart)) else none
  else none

/-- R23, R47: what a 32-bit read of a register returns; `CMD` reads 0. -/
def readRegister (s : State) (offset : Nat) : Word :=
  match offset with
  | 0x000 => config0Word
  | 0x004 => config1Word s.params
  | 0x008 => bufSizeWord s.params
  | 0x00C => 0
  | 0x010 => statusWord s
  | 0x014 => s.srcAddr
  | 0x018 => s.srcLen
  | 0x01C => s.dstAddr
  | 0x020 => s.resultLen
  | 0x024 => s.gridW
  | 0x028 => s.gridH
  | 0x02C => cipherStatusWord s
  | _ => 0

/-- R27, R44: a write of `CMD` latches the word, so `BUSY` = 1, and clears `DONE`. How many accesses that do not hold
come before the engine's step is free (log 7). -/
def startCommand (w : Word) (s : State) : State :=
  { s with inflight := some w, done := false, pollBudget := Config.pollBudget s.draws, draws := s.draws + 1 }

/-- R23, R47: a 32-bit write of a register; a write of a read-only register is ignored. -/
def writeRegister (offset : Nat) (v : Word) (s : State) : State :=
  match offset with
  | 0x00C => startCommand v s
  | 0x014 => { s with srcAddr := v }
  | 0x018 => { s with srcLen := v }
  | 0x01C => { s with dstAddr := v }
  | 0x024 => { s with gridW := v }
  | 0x028 => { s with gridH := v }
  | _ => s

/-- R63: bytes, the lowest address first, as a little-endian number. -/
def littleEndian : Bytes → Nat
  | [] => 0
  | b :: bs => b.toNat + 256 * littleEndian bs

/-- R63: the `n` low bytes of a word, the lowest first. -/
def wordBytes (n : Nat) (v : Word) : Bytes := (List.range n).map fun i => v.extractLsb' (8 * i) 8

/-- R63: a read of the buffer window, widened with zeros. -/
def readWindow (s : State) (a : Nat) (width : Width) : Word :=
  BitVec.ofNat 32 (littleEndian (memRead s a width.bytes))

/-- R63: a write of the buffer window. -/
def writeWindow (a : Nat) (width : Width) (v : Word) (s : State) : State := memWrite a (wordBytes width.bytes v) s

/-- The host is answered. -/
def answer (r : Reply) (s : State) : State := { s with replies := r :: s.replies }

/-- R64, R67, R240: a bus error changes no state of the block but the sticky `bus_fault`; a read returns no value. -/
def busError (s : State) : State := answer .busError { s with busFault := true }

/-- R64, R68: a legal read has no effect but its answer. -/
def performRead (width : Width) (offset : Nat) (s : State) : State :=
  match accessTarget s.params width offset with
  | none => busError s
  | some (.register r) => answer (.data (readRegister s r)) s
  | some (.buffer a) => answer (.data (readWindow s a width)) s

/-- R64, R68: a legal write changes the register or the bytes it writes. -/
def performWrite (width : Width) (offset : Nat) (v : Word) (s : State) : State :=
  match accessTarget s.params width offset with
  | none => busError s
  | some (.register r) => answer .done (writeRegister r v s)
  | some (.buffer a) => answer .done (writeWindow a width v s)

/-- R99: one bus transaction, performed. -/
def performAccess (a : Access) (s : State) : State :=
  match a with
  | .read width offset => performRead width offset.toNat s
  | .write width offset v => performWrite width offset.toNat v s

end Sys2Proof.Machine
end

