-- ==== Sys2Proof/Machine/HostAgent.lean ====
section
/-! DEFINITION. The host and the reset input as agents (R20, R71, R102, R203, R205, R260 to R262): the next input,
performed, and which inputs may come before the engine's step. -/

namespace Sys2Proof.Machine

/-- R71: a 32-bit read of `STATUS`, the one access that does not hold. -/
def statusRead : Access := .read .w32 (BitVec.ofNat 21 offStatus)

/-- R23, R100: a 32-bit write of a register as a bus transaction. -/
def registerWrite (offset : Nat) (v : Word) : Access := .write .w32 (BitVec.ofNat 21 offset) v

/-- R71, R262: whether an input can come while a command is in flight: a read of `STATUS` does not hold, and the
reset input is no host access. -/
def Input.passesBusy : Input → Bool
  | .bus a => a = statusRead
  | .wait => true
  | .stopOnError _ => true
  | .sourceFromResult _ => false
  | .reset => true

/-- R71, R72: whether the next input comes before the engine's step, while a command is in flight (log 7). -/
def hostGoesFirst (s : State) : Bool :=
  match s.inputs with
  | [] => false
  | i :: _ => i.passesBusy && s.pollBudget != 0

/-- R260 to R262: the reset input. Every byte of the buffer is drawn afresh, a command in flight is abandoned and the
cipher slot is zeroised. What is outside the block stays (log 20). -/
def resetBlock (s : State) : State :=
  { State.reset with
    params := s.params
    bufEpoch := s.draws
    draws := s.draws + 1
    entropyIn := s.entropyIn
    inputs := s.inputs
    replies := s.replies }

/-- R102: one poll of a loop that reads `STATUS` until it is not busy: `next` is what the host goes on with after
that, `again` what it has to do otherwise. -/
def pollStatus (again next : List Input) (s : State) : State :=
  performAccess statusRead { s with inputs := if s.busy then again else next }

/-- The next input, performed. With no input the block waits (R263, log 10). -/
def performInput (s : State) : State :=
  match s.inputs with
  | [] => s
  | .bus a :: rest => performAccess a { s with inputs := rest }
  | .wait :: rest => pollStatus (.wait :: rest) rest s
  | .stopOnError skip :: rest =>
    pollStatus (.stopOnError skip :: rest) (if s.err = .ok then rest else rest.drop skip) s
  | .sourceFromResult tmp :: rest =>
    performRead .w32 offResultLen
      { s with
        inputs :=
          .bus (registerWrite offSrcAddr tmp) :: .bus (registerWrite offSrcLen s.resultLen) :: rest }
  | .reset :: rest => resetBlock { s with inputs := rest }

/-- An input that comes before the engine's step uses up one of those that may (log 7). -/
def hostTurn (s : State) : State :=
  if s.busy then { performInput s with pollBudget := (performInput s).pollBudget - 1 } else performInput s

/-- R95, R96: a word that is no command completes at once with `ILLEGAL_COMMAND`. -/
def rejectCommand (why : Illegal) (s : State) : State := raiseError .illegalCommand (illegalCause why) s

end Sys2Proof.Machine
end

