-- ==== Sys2Proof/Machine/Step.lean ====
section
/-! DEFINITION. One step of the block and its one host (R20, R71, R72): the engine's atomic transition while a command
is in flight, the next input otherwise. -/

namespace Sys2Proof.Machine

/-- R72: the engine executes the latched word: its command, or its rejection (R96). -/
def engineStep (w : Word) (s : State) : Host.Outcome State Fault Refusal :=
  match decodeWord w with
  | .ok i => exec i s
  | .error why => .next (rejectCommand why s)

/-- R71, R72: while a command is in flight the engine steps, unless an input that does not hold comes first (log 7);
otherwise the next input is performed. -/
def step (s : State) : Host.Outcome State Fault Refusal :=
  match s.inflight with
  | none => .next (hostTurn s)
  | some w => if hostGoesFirst s then .next (hostTurn s) else engineStep w s

/-- `s` with a table row's word latched as the command in flight, as a write of `CMD` leaves it (R27), and the
engine's step next (log 14). -/
def State.withFetchWord (s : State) (nbits w : Nat) : State :=
  { s with inflight := some (BitVec.ofNat 32 (w % 2 ^ nbits)), done := false, pollBudget := 0 }

end Sys2Proof.Machine
end

