-- ==== Sys2Proof/Machine/Sequences.lean ====
section
/-! DEFINITION. The pseudo-instructions as lists of inputs: one command or register write each (R100 to R102), and the
orchestration sequences (R201 to R205). -/

namespace Sys2Proof.Machine

/-- R100: `W32 <reg>, <value>`. -/
def w32 (offset : Nat) (v : Word) : Input := .bus (registerWrite offset v)

/-- R100: `R32 <reg>`. -/
def r32 (offset : Nat) : Input := .bus (.read .w32 (BitVec.ofNat 21 offset))

/-- R101: a command mnemonic, `W32 CMD, <word>`. -/
def command (i : Instr) : Input := w32 offCmd (encode i)

/-- R102: `SRC a, l`. -/
def setSource (a l : Nat) : List Input := [w32 offSrcAddr (BitVec.ofNat 32 a), w32 offSrcLen (BitVec.ofNat 32 l)]

/-- R102: `DST a`. -/
def setDest (a : Nat) : List Input := [w32 offDstAddr (BitVec.ofNat 32 a)]

/-- R102: `GRID w, h`. -/
def setGrid (w h : Nat) : List Input := [w32 offGridW (BitVec.ofNat 32 w), w32 offGridH (BitVec.ofNat 32 h)]

/-- R102: `PUT a, b0 b1 ... bm`, one 8-bit write a byte. -/
def putBytes (a : Nat) : Bytes → List Input
  | [] => []
  | b :: bs => .bus (.write .w8 (BitVec.ofNat 21 (windowStart + a)) (b.setWidth 32)) :: putBytes (a + 1) bs

/-- R205: steps of a sequence, each ended by a read of `STATUS` that leaves out all later steps after an error. -/
def stoppingOnError : List (List Input) → List Input
  | [] => []
  | step :: later =>
    step ++ .stopOnError (stoppingOnError later).length :: stoppingOnError later

/-- R201: `SEAL_IMAGE src, len, tmp, grid, art` on a block with tag length `tagLen`. -/
def sealImage (tagLen src len tmp grid art : Nat) : List Input :=
  stoppingOnError
    [[command .generate],
     setDest art ++ [command .exportArtifact],
     setSource src len ++ setDest tmp ++ [command .encrypt],
     setSource tmp (len + tagLen) ++ setDest grid ++ [command .encode]]

/-- R202: `PLAIN_IMAGE src, len, grid`. -/
def plainImage (src len grid : Nat) : List Input :=
  stoppingOnError [setSource src len ++ setDest grid ++ [command .encode]]

/-- R203: `OPEN_IMAGE grid, w, h, art, tmp, out`. -/
def openImage (grid w h art tmp out : Nat) : List Input :=
  stoppingOnError
    [setSource art Config.artifactBytes ++ [command .fromArtifact],
     setGrid w h ++ setSource grid 0 ++ setDest tmp ++ [command .decode],
     .sourceFromResult (BitVec.ofNat 32 tmp) :: setDest out ++ [command .decrypt]]

/-- R204: `PLAIN_OPEN grid, w, h, out`. -/
def plainOpen (grid w h out : Nat) : List Input :=
  stoppingOnError [setGrid w h ++ setSource grid 0 ++ setDest out ++ [command .decode]]

end Sys2Proof.Machine
end

