-- ==== Sys2Proof/Safety.lean ====
section
/-! DEFINITION. The terms claims are stated in: the invariant of the block, how a command ends, what it leaves alone,
and the named properties of R162 and R247. -/

namespace Sys2Proof.Machine

/-! ### The invariant -/

/-- R14, R66: the parameters are those of some block. -/
def Params.inRange (p : Params) : Prop :=
  1 ≤ p.bufSize ∧ p.bufSize ≤ Config.bufSizeMax ∧ 1 ≤ p.tagLen ∧ p.tagLen ≤ 255
    ∧ p.base.toNat % Config.blockSpan = 0

/-- R43: memory is in its canonical form and lists only addresses of the buffer. -/
def State.memoryOk (s : State) : Prop := Memory.wf s.buf ∧ Memory.within s.buf s.params.bufSize

/-- R221: the causes each error is used with. `CORRUPT_IMAGE(COUNT_TOO_LARGE)` is unreachable (R146). -/
def legalStatus (e : ErrCode) (c : Cause) : Bool :=
  match e with
  | .ok | .noCipher | .length | .cipherHardError | .entropyError => c = .none
  | .illegalCommand => c = .badOpcode ∨ c = .reservedBits ∨ c = .badN
  | .bounds => c = .srcRange ∨ c = .dstRange ∨ c = .overlap
  | .paddingError => c = .zeroCount ∨ c = .countTooLarge ∨ c = .filler
  | .corruptImage => c = .width ∨ c = .height ∨ c = .zeroCount ∨ c = .filler
  | .authenticationError => c = .shortInput ∨ c = .tagMismatch

/-- R28, R36, R221: the status fields are those of a completed command or of reset, and no command is both in flight
and done. -/
def State.statusOk (s : State) : Prop :=
  legalStatus s.err s.cause = true ∧ (s.err ≠ .ok → s.resultLen = 0)
    ∧ s.resultLen.toNat ≤ s.params.bufSize ∧ (s.busy = true → s.done = false)

/-- R39, R260: `VALID` = 0 if and only if `ORIGIN` = 0, and then the slot is zeroised. -/
def State.slotOk (s : State) : Prop :=
  (s.cipher.valid = false ↔ s.cipher.origin = .none) ∧ (s.cipher.valid = false → s.cipher = CipherSlot.empty)

/-- The invariant of the block. -/
def State.inv (s : State) : Prop := s.params.inRange ∧ s.memoryOk ∧ s.statusOk ∧ s.slotOk

/-- A safe run of the host makes no illegal access (R64, R240). -/
def State.busSafe (s : State) : Prop := s.busFault = false

/-- R46, R170: the single-use invariant of the current cipher. -/
def State.singleUse (s : State) : Prop := s.cipher.encCount.toNat ≤ 1

/-! ### Conditions on a command's operands -/

/-- R231 to R233: a source of `len` bytes at `SRC_ADDR` and a destination of `m` bytes at `DST_ADDR` lie in the buffer
and do not overlap. -/
def State.rangesOk (s : State) (len m : Nat) : Prop :=
  s.src + len ≤ s.params.bufSize ∧ s.dst + m ≤ s.params.bufSize
    ∧ (len = 0 ∨ m = 0 ∨ s.dst + m ≤ s.src ∨ s.src + len ≤ s.dst)

/-- R201: the ranges of `n` bytes at `a` and of `m` bytes at `b` share no byte. -/
def rangesDisjoint (a n b m : Nat) : Prop := n = 0 ∨ m = 0 ∨ a + n ≤ b ∨ b + m ≤ a

/-- R71, R72: the engine's step is next: the command in flight is `w`, and no input comes first. -/
def State.engineNext (s : State) (w : Word) : Prop := s.inflight = some w ∧ hostGoesFirst s = false

/-- The next thing that happens is the performing of input `i`, with `rest` after it, while no command is in flight. -/
def State.inputNext (s : State) (i : Input) (rest : List Input) : Prop := s.inflight = none ∧ s.inputs = i :: rest

/-- The reset input is performed next: it is the next input, and the engine's step does not come first (log 20). -/
def State.resetNext (s : State) : Prop := s.inputs.head? = some .reset ∧ (s.inflight = none ∨ 0 < s.pollBudget)

/-! ### How a command ends -/

/-- R237: the command has completed without error and `len` bytes are reported. -/
def State.succeeded (t : State) (len : Nat) : Prop :=
  t.inflight = none ∧ t.done = true ∧ t.err = .ok ∧ t.cause = .none ∧ t.resultLen.toNat = len

/-- R236: the command has completed with error `e`, cause `c`. -/
def State.failed (t : State) (e : ErrCode) (c : Cause) : Prop :=
  t.inflight = none ∧ t.done = true ∧ t.err = e ∧ t.cause = c ∧ t.resultLen = 0

/-- R236: the state that `raise E(c)` leaves when nothing else has happened. -/
def State.afterError (s : State) (e : ErrCode) (c : Cause) : State :=
  { s with inflight := none, done := true, err := e, cause := c, resultLen := 0 }

/-! ### What a step leaves alone -/

/-- The operand registers a command only reads. -/
def sameOperands (s t : State) : Prop := t.srcAddr = s.srcAddr ∧ t.srcLen = s.srcLen ∧ t.dstAddr = s.dstAddr

/-- The grid registers. -/
def sameGrid (s t : State) : Prop := t.gridW = s.gridW ∧ t.gridH = s.gridH

/-- What no command changes, beside the operand registers: the parameters, the sticky bus fault, and all that stands
outside the engine. -/
def sameOutside (s t : State) : Prop :=
  t.params = s.params ∧ t.busFault = s.busFault ∧ t.bufEpoch = s.bufEpoch ∧ t.pollBudget = s.pollBudget
    ∧ t.inputs = s.inputs ∧ t.replies = s.replies

/-- The entropy source has not been asked and no free value drawn. -/
def sameDraws (s t : State) : Prop := t.draws = s.draws ∧ t.entropyIn = s.entropyIn

/-- Every byte of the buffer reads as before. -/
def sameBuffer (s t : State) : Prop := ∀ a, t.readByte a = s.readByte a

/-- Every byte outside the `n` bytes at `d` reads as before. -/
def sameBufferOutside (s t : State) (d n : Nat) : Prop := ∀ a, a < d ∨ d + n ≤ a → t.readByte a = s.readByte a

/-! ### Laws and named properties of the AEAD and of the entropy source -/

/-- R160, R161: the laws a model may assume of `AEAD_SEAL` and `AEAD_OPEN`. -/
def LawfulAead (sealed opened : Nat → Vector Byte 32 → Vector Byte 12 → Bytes → Option Bytes) : Prop :=
  (∀ tagLen key nonce pt ct, sealed tagLen key nonce pt = some ct → ct.length = pt.length + tagLen)
    ∧ (∀ tagLen key nonce ct pt, opened tagLen key nonce ct = some pt →
        tagLen ≤ ct.length ∧ pt.length = ct.length - tagLen)
    ∧ (∀ tagLen key nonce pt ct, sealed tagLen key nonce pt = some ct → opened tagLen key nonce ct = some pt)

/-- R162 `TAMPER_DETECT`, a premise a claim may name. -/
def TamperDetect (tagLen : Nat) : Prop :=
  ∀ key nonce pt ct i b, aeadSeal tagLen key nonce pt = some ct → i < ct.length → ct.getD i 0 ≠ b →
    aeadOpen tagLen key nonce (ct.set i b) = none

/-- R162 `WRONG_KEY_DETECT`, a premise a claim may name. -/
def WrongKeyDetect (tagLen : Nat) : Prop :=
  ∀ key nonce key' nonce' pt ct, aeadSeal tagLen key nonce pt = some ct → (key', nonce') ≠ (key, nonce) →
    aeadOpen tagLen key' nonce' ct = none

/-- R162 `NO_SEAL_FAILURE`, a premise a claim may name. -/
def NoSealFailure (tagLen : Nat) : Prop := ∀ key nonce pt, aeadSeal tagLen key nonce pt ≠ none

/-- R247 `ENTROPY_FRESH`, a premise a claim may name, of a random state whose next `draws` entropy answers are settled
in it (log 3, 16): an answer among them that is not `fail` can be exchanged for any other of its length without a
change of probability. That is, given every other answer and all state, and that this answer is not `fail`, it is
uniformly random. -/
def EntropyFresh (draws : Nat) (μ : PMF State) : Prop :=
  (∀ s, μ s ≠ 0 → draws ≤ s.entropyIn.length)
    ∧ ∀ (s : State) (k : Nat) (bs bs' : Bytes), k < draws → s.entropyIn[k]? = some (some bs) →
        bs'.length = bs.length → μ { s with entropyIn := s.entropyIn.set k (some bs') } = μ s

end Sys2Proof.Machine
end

