-- ==== Sys2Proof/Certificates/Slice0/Obligations.lean ====
section
/-! DEFINITION. The statements about the block. Each docstring names the rule or section it formalises. -/

open Sys2Proof Sys2Proof.Machine

/-! ### Encoding -/

/-- R91 to R94, R101: decoding the word of a command gives that command back, and a word that decodes to a command is
the word of that command. -/
def Obligations.DecodeInvertsEncode : Prop :=
  (∀ i : Instr, i.wellFormed = true → decodeWord (encode i) = .ok i)
    ∧ ∀ (w : Word) (i : Instr), decodeWord w = .ok i → i.wellFormed = true ∧ encode i = w

/-- R94: which word selects which command, by mask, match and `N`. -/
def Obligations.DecodeMatchesOpcodeTable : Prop :=
  ∀ w : Word,
    (∀ n : Byte, decodeWord w = .ok (.pad n) ↔
      w &&& 0xFFFF00FF#32 = 0x00000001#32 ∧ w.extractLsb' 8 8 ≠ 0 ∧ n = w.extractLsb' 8 8)
    ∧ (∀ n : Byte, decodeWord w = .ok (.unpad n) ↔
      w &&& 0xFFFF00FF#32 = 0x00000002#32 ∧ w.extractLsb' 8 8 ≠ 0 ∧ n = w.extractLsb' 8 8)
    ∧ (decodeWord w = .ok .encode ↔ w = 0x00000003#32)
    ∧ (decodeWord w = .ok .decode ↔ w = 0x00000004#32)
    ∧ (decodeWord w = .ok .generate ↔ w = 0x00000010#32)
    ∧ (decodeWord w = .ok .fromKey ↔ w = 0x00000011#32)
    ∧ (decodeWord w = .ok .fromArtifact ↔ w = 0x00000012#32)
    ∧ (decodeWord w = .ok .exportArtifact ↔ w = 0x00000013#32)
    ∧ (decodeWord w = .ok .encrypt ↔ w = 0x00000014#32)
    ∧ (decodeWord w = .ok .decrypt ↔ w = 0x00000015#32)

/-- R95, R96: a latched word that fails a legality check completes with `ILLEGAL_COMMAND` and the cause of the first
check it fails; nothing but `STATUS` and `RESULT_LEN` changes. -/
def Obligations.IllegalWordCompletesWithFirstCause : Prop :=
  ∀ (s : State) (w : Word), s.engineNext w →
    let op := w.extractLsb' 0 8
    let n := w.extractLsb' 8 8
    let assigned : List Byte := [0x01, 0x02, 0x03, 0x04, 0x10, 0x11, 0x12, 0x13, 0x14, 0x15]
    (op ∉ assigned → step s = .next (s.afterError .illegalCommand .badOpcode))
    ∧ (op ∈ assigned → w.extractLsb' 16 16 ≠ 0 → step s = .next (s.afterError .illegalCommand .reservedBits))
    ∧ (w.extractLsb' 16 16 = 0 → op = 0x01 ∨ op = 0x02 → n = 0 →
        step s = .next (s.afterError .illegalCommand .badN))
    ∧ (op ∈ assigned → w.extractLsb' 16 16 = 0 → op ≠ 0x01 → op ≠ 0x02 → n ≠ 0 →
        step s = .next (s.afterError .illegalCommand .badN))

/-- R101, test vectors E-11 and E-12: words written out from the encoding stand for their commands. -/
def Obligations.SampleWordsDecode : Prop :=
  decodeWord 0x0000FF01#32 = .ok (.pad 255) ∧ decodeWord 0x00000402#32 = .ok (.unpad 4)
    ∧ decodeWord 0x00000003#32 = .ok .encode ∧ decodeWord 0x00000013#32 = .ok .exportArtifact
    ∧ decodeWord 0x00010000#32 = .error .badOpcode ∧ decodeWord 0x80000401#32 = .error .reservedBits
    ∧ decodeWord 0x00000103#32 = .error .badN

/-- R72: when the engine's step is next and the latched word decodes, the step is `exec` of that command, with nothing
added around it. So it is on a word that `withFetchWord` latched. -/
def Obligations.StepRunsDecodedCommand : Prop :=
  (∀ (s : State) (w : Word) (i : Instr), s.engineNext w → decodeWord w = .ok i → step s = exec i s)
    ∧ ∀ (s : State) (i : Instr), i.wellFormed = true →
        step (s.withFetchWord 32 (encode i).toNat) = exec i (s.withFetchWord 32 (encode i).toNat)

/-- R72, R241: whatever the latched word, the engine's step completes it: a next state with nothing in flight and
`DONE` = 1, and the operand registers, parameters and host left alone. -/
def Obligations.EngineStepCompletes : Prop :=
  ∀ (s : State) (w : Word), s.engineNext w →
    ∃ t, step s = .next t ∧ t.inflight = none ∧ t.done = true ∧ sameOperands s t ∧ sameOutside s t

/-! ### The pure functions -/

/-- R125: unpadding a padded block gives the data back for every length below the block size, whatever
`FILLER_CHECK` is; a full block is padded to itself, and some full block does not unpad to itself. -/
def Obligations.UnpadInvertsPad : Prop :=
  (∀ (fillerCheck : Bool) (n : Nat) (y : Bytes), 1 ≤ n → n ≤ 255 → y.length < n →
    unpadBytes fillerCheck n (padBytes n y) = .ok y)
  ∧ (∀ (n : Nat) (y : Bytes), y.length = n → padBytes n y = y)
  ∧ ∀ fillerCheck : Bool, ∃ (n : Nat) (y : Bytes), 1 ≤ n ∧ n ≤ 255 ∧ y.length = n
      ∧ unpadBytes fillerCheck n (padBytes n y) ≠ .ok y

/-- R126: with `FILLER_CHECK`, the blocks that unpad are exactly the padded shorter buffers; without it a block with
filler that is not zero, and there are such blocks that unpad, is not the padding of what it unpads to. -/
def Obligations.PadInvertsUnpad : Prop :=
  (∀ (n : Nat) (b r : Bytes), 1 ≤ n → n ≤ 255 → b.length = n → unpadBytes true n b = .ok r →
    r.length < n ∧ padBytes n r = b)
  ∧ (∀ (n : Nat) (y : Bytes), 1 ≤ n → n ≤ 255 → y.length < n →
    (padBytes n y).length = n ∧ unpadBytes true n (padBytes n y) = .ok y)
  ∧ (∀ (n : Nat) (b r : Bytes) (j : Nat), 1 ≤ n → n ≤ 255 → b.length = n → unpadBytes false n b = .ok r →
    r.length ≤ j → j < n - 1 → b.getD j 0 ≠ 0 → padBytes n r ≠ b)
  ∧ ∃ (n : Nat) (b r : Bytes) (j : Nat), 1 ≤ n ∧ n ≤ 255 ∧ b.length = n ∧ unpadBytes false n b = .ok r
      ∧ r.length ≤ j ∧ j < n - 1 ∧ b.getD j 0 ≠ 0

/-- R141, R142: an encoding is the input, then zeros, then the pad count of the last chunk: `rows(L)` rows. -/
def Obligations.EncodingIsInputZerosCount : Prop :=
  ∀ x : Bytes,
    encodeBytes x = x ++ List.replicate (254 - x.length % 255) 0 ++ [BitVec.ofNat 8 (255 - x.length % 255)]
      ∧ (encodeBytes x).length = 255 * (x.length / 255 + 1)

/-- R147: decoding an encoding gives the input, for every input and either `FILLER_CHECK`; and an `ENCODE` followed
by a `DECODE` of the grid it left, both within their bounds, writes the source bytes at the `DECODE`'s destination. -/
def Obligations.DecodeInvertsEncoding : Prop :=
  (∀ (fillerCheck : Bool) (x : Bytes), decodeBytes fillerCheck (encodeBytes x) (x.length / 255 + 1) = .ok x)
  ∧ ∀ s : State, s.params.inRange → s.rangesOk s.len (255 * (s.len / 255 + 1)) →
      ∃ t, exec .encode s = .next t ∧ t.err = .ok ∧
        ∀ s' : State, s'.params = t.params → sameGrid t s' → s'.buf = t.buf → s'.bufEpoch = t.bufEpoch →
          s'.srcAddr = t.dstAddr → s'.rangesOk (255 * (s.len / 255 + 1)) (255 * (s.len / 255 + 1) - 1) →
          ∃ u, exec .decode s' = .next u ∧ u.succeeded s.len ∧ memRead u s'.dst s.len = memRead s s.src s.len

/-! ### Errors that the registers decide (R230 steps 2 to 6) -/

/-- R168, R180, R181, R230: without a cipher, `EXPORT`, `ENCRYPT` and `DECRYPT` report `NO_CIPHER` before anything
else and have no other effect. -/
def Obligations.NoCipherReportedFirst : Prop :=
  ∀ (s : State) (i : Instr), i ∈ [Instr.exportArtifact, .encrypt, .decrypt] → s.cipher.valid = false →
    exec i s = .next (s.afterError .noCipher .none)

/-- R123, R124, R166, R167, R230: a wrong `SRC_LEN` is reported as `LENGTH` before any bound and has no other effect. -/
def Obligations.WrongLengthReported : Prop :=
  ∀ s : State,
    (∀ n : Byte, n ≠ 0 → n.toNat < s.len → exec (.pad n) s = .next (s.afterError .length .none))
    ∧ (∀ n : Byte, n ≠ 0 → s.len ≠ n.toNat → exec (.unpad n) s = .next (s.afterError .length .none))
    ∧ (s.len ≠ 32 → exec .fromKey s = .next (s.afterError .length .none))
    ∧ (s.len ≠ 44 → exec .fromArtifact s = .next (s.afterError .length .none))

/-- R145: the dimension check of `DECODE`, the width first, before any bound. -/
def Obligations.DimensionErrorsReported : Prop :=
  ∀ s : State,
    (s.gridW.toNat ≠ 85 → exec .decode s = .next (s.afterError .corruptImage .width))
    ∧ (s.gridW.toNat = 85 → s.gridH.toNat = 0 → exec .decode s = .next (s.afterError .corruptImage .height))

/-- R231, R232, R233: the source bound, then the destination bound at `OUTMAX`, then the overlap of the two, in
unbounded arithmetic and with no other effect. -/
def Obligations.BoundsErrorsReported : Prop :=
  ∀ (s : State),
    (∀ (i : Instr) (l m : Nat),
      ((∃ n : Byte, i = .pad n ∧ n ≠ 0 ∧ s.len ≤ n.toNat ∧ l = s.len ∧ m = n.toNat)
        ∨ (∃ n : Byte, i = .unpad n ∧ n ≠ 0 ∧ s.len = n.toNat ∧ l = n.toNat ∧ m = n.toNat - 1)
        ∨ (i = .encode ∧ l = s.len ∧ m = 255 * (s.len / 255 + 1))
        ∨ (i = .decode ∧ s.gridW.toNat = 85 ∧ s.gridH.toNat ≠ 0 ∧ l = 255 * s.gridH.toNat
            ∧ m = 255 * s.gridH.toNat - 1)
        ∨ (i = .encrypt ∧ s.cipher.valid = true ∧ l = s.len ∧ m = s.len + s.params.tagLen)
        ∨ (i = .decrypt ∧ s.cipher.valid = true ∧ l = s.len
            ∧ m = if s.params.tagLen ≤ s.len then s.len - s.params.tagLen else 0)) →
      (s.params.bufSize < s.src + l → exec i s = .next (s.afterError .bounds .srcRange))
      ∧ (s.src + l ≤ s.params.bufSize → s.params.bufSize < s.dst + m →
          exec i s = .next (s.afterError .bounds .dstRange))
      ∧ (s.src + l ≤ s.params.bufSize → s.dst + m ≤ s.params.bufSize → 0 < l → 0 < m → s.src < s.dst + m →
          s.dst < s.src + l → exec i s = .next (s.afterError .bounds .overlap)))
    ∧ (s.len = 32 → s.params.bufSize < s.src + 32 → exec .fromKey s = .next (s.afterError .bounds .srcRange))
    ∧ (s.len = 44 → s.params.bufSize < s.src + 44 → exec .fromArtifact s = .next (s.afterError .bounds .srcRange))
    ∧ (s.cipher.valid = true → s.params.bufSize < s.dst + 44 →
        exec .exportArtifact s = .next (s.afterError .bounds .dstRange))

/-- R235, R236: a command that ends with an error, an illegal word among them, writes `STATUS` and `RESULT_LEN` = 0 and
no other register. The only bytes it may change are the destination range of a data-dependent error, and none when the
registers decided the error (R234). -/
def Obligations.FailingCommandChangesOnlyStatus : Prop :=
  (∀ (s t : State) (w : Word), s.engineNext w → step s = .next t → t.err ≠ .ok →
    t.failed t.err t.cause ∧ sameOperands s t ∧ sameGrid s t ∧ t.cipher = s.cipher ∧ sameOutside s t
      ∧ (∀ why, decodeWord w = .error why → sameBuffer s t))
  ∧ ∀ (s t : State) (i : Instr), exec i s = .next t → t.err ≠ .ok →
      (∀ a, (match outMax i s with | none => True | some m => a < s.dst ∨ s.dst + m ≤ a) →
          t.readByte a = s.readByte a)
      ∧ (t.err ∈ [ErrCode.illegalCommand, .noCipher, .length, .bounds, .entropyError] → sameBuffer s t)

/-! ### What each command does -/

/-- R121, R123: `PAD`. -/
def Obligations.PadWritesPaddedBlock : Prop :=
  ∀ (s : State) (n : Byte), n ≠ 0 → s.len ≤ n.toNat → s.rangesOk s.len n.toNat →
    ∃ t, exec (.pad n) s = .next t ∧ t.succeeded n.toNat
      ∧ memRead t s.dst n.toNat =
          (if s.len = n.toNat then memRead s s.src s.len
           else memRead s s.src s.len ++ List.replicate (n.toNat - s.len - 1) 0
             ++ [BitVec.ofNat 8 (n.toNat - s.len)])
      ∧ sameBufferOutside s t s.dst n.toNat
      ∧ sameOperands s t ∧ sameGrid s t ∧ t.cipher = s.cipher ∧ sameOutside s t ∧ sameDraws s t

/-- R122, R124: `UNPAD` of a block whose count is in range and whose filler, where it is checked, is zero. -/
def Obligations.UnpadWritesData : Prop :=
  ∀ (s : State) (n : Byte) (k : Nat), n ≠ 0 → s.len = n.toNat → s.rangesOk n.toNat (n.toNat - 1) →
    k = (s.readByte (s.src + (n.toNat - 1))).toNat → 1 ≤ k → k ≤ n.toNat →
    (s.params.fillerCheck = true → ∀ j, n.toNat - k ≤ j → j < n.toNat - 1 → s.readByte (s.src + j) = 0) →
    ∃ t, exec (.unpad n) s = .next t ∧ t.succeeded (n.toNat - k)
      ∧ memRead t s.dst (n.toNat - k) = memRead s s.src (n.toNat - k)
      ∧ sameBufferOutside s t s.dst (n.toNat - k)
      ∧ sameOperands s t ∧ sameGrid s t ∧ t.cipher = s.cipher ∧ sameOutside s t ∧ sameDraws s t

/-- R122, R124, R234: `UNPAD` of a block with a bad count, or with a filler byte that is checked and not zero, reports
`PADDING_ERROR` with its cause; only the `n - 1` destination bytes may change. -/
def Obligations.UnpadReportsPaddingError : Prop :=
  ∀ (s : State) (n : Byte) (k : Nat), n ≠ 0 → s.len = n.toNat → s.rangesOk n.toNat (n.toNat - 1) →
    k = (s.readByte (s.src + (n.toNat - 1))).toNat →
    ∀ c : Cause,
      ((c = .zeroCount ∧ k = 0) ∨ (c = .countTooLarge ∧ n.toNat < k)
        ∨ (c = .filler ∧ 1 ≤ k ∧ k ≤ n.toNat ∧ s.params.fillerCheck = true
            ∧ ∃ j, n.toNat - k ≤ j ∧ j < n.toNat - 1 ∧ s.readByte (s.src + j) ≠ 0)) →
      ∃ t, exec (.unpad n) s = .next t ∧ t.failed .paddingError c
        ∧ sameBufferOutside s t s.dst (n.toNat - 1)
        ∧ sameOperands s t ∧ sameGrid s t ∧ t.cipher = s.cipher ∧ sameOutside s t

/-- R140 to R143: `ENCODE`. -/
def Obligations.EncodeWritesGrid : Prop :=
  ∀ s : State, s.params.inRange → s.rangesOk s.len (255 * (s.len / 255 + 1)) →
    ∃ t, exec .encode s = .next t ∧ t.succeeded (255 * (s.len / 255 + 1))
      ∧ t.gridW = 85 ∧ t.gridH.toNat = s.len / 255 + 1
      ∧ memRead t s.dst (255 * (s.len / 255 + 1)) =
          memRead s s.src s.len ++ List.replicate (254 - s.len % 255) 0 ++ [BitVec.ofNat 8 (255 - s.len % 255)]
      ∧ sameBufferOutside s t s.dst (255 * (s.len / 255 + 1))
      ∧ sameOperands s t ∧ t.cipher = s.cipher ∧ sameOutside s t ∧ sameDraws s t

/-- R61, R62: the pixels of the grid `ENCODE` writes: channel `ch` of the pixel at row `r`, column `c` is byte
`255 r + 3 c + ch` of the encoding. -/
def Obligations.EncodedGridHasPixelLayout : Prop :=
  ∀ s : State, s.params.inRange → s.rangesOk s.len (255 * (s.len / 255 + 1)) →
    ∃ t, exec .encode s = .next t ∧
      ∀ r c, r < s.len / 255 + 1 → c < 85 →
        let e := memRead s s.src s.len ++ List.replicate (254 - s.len % 255) 0
          ++ [BitVec.ofNat 8 (255 - s.len % 255)]
        readPixel t s.dst 85 r c
          = { r := e.getD (255 * r + 3 * c) 0, g := e.getD (255 * r + 3 * c + 1) 0,
              b := e.getD (255 * r + 3 * c + 2) 0 }

/-- R144, R146: `DECODE` of a grid whose terminal row unpads: the interior rows whatever they hold, then the data of
the terminal row. -/
def Obligations.DecodeWritesBytes : Prop :=
  ∀ (s : State) (k : Nat), s.params.inRange → s.gridW.toNat = 85 → s.gridH.toNat ≠ 0 →
    s.rangesOk (255 * s.gridH.toNat) (255 * s.gridH.toNat - 1) →
    k = (s.readByte (s.src + (255 * s.gridH.toNat - 1))).toNat → k ≠ 0 →
    (s.params.fillerCheck = true → ∀ j, 255 * s.gridH.toNat - k ≤ j → j < 255 * s.gridH.toNat - 1 →
      s.readByte (s.src + j) = 0) →
    ∃ t, exec .decode s = .next t ∧ t.succeeded (255 * s.gridH.toNat - k)
      ∧ memRead t s.dst (255 * s.gridH.toNat - k) = memRead s s.src (255 * s.gridH.toNat - k)
      ∧ sameBufferOutside s t s.dst (255 * s.gridH.toNat - k)
      ∧ sameOperands s t ∧ sameGrid s t ∧ t.cipher = s.cipher ∧ sameOutside s t ∧ sameDraws s t

/-- R146, R222, R234: `DECODE` of a grid whose terminal row does not unpad reports `CORRUPT_IMAGE` with the padding
cause; only the `255 H - 1` destination bytes may change. -/
def Obligations.DecodeReportsCorruptImage : Prop :=
  ∀ (s : State) (k : Nat), s.gridW.toNat = 85 → s.gridH.toNat ≠ 0 →
    s.rangesOk (255 * s.gridH.toNat) (255 * s.gridH.toNat - 1) →
    k = (s.readByte (s.src + (255 * s.gridH.toNat - 1))).toNat →
    ∀ c : Cause,
      ((c = .zeroCount ∧ k = 0)
        ∨ (c = .filler ∧ k ≠ 0 ∧ s.params.fillerCheck = true
            ∧ ∃ j, 255 * s.gridH.toNat - k ≤ j ∧ j < 255 * s.gridH.toNat - 1 ∧ s.readByte (s.src + j) ≠ 0)) →
      ∃ t, exec .decode s = .next t ∧ t.failed .corruptImage c
        ∧ sameBufferOutside s t s.dst (255 * s.gridH.toNat - 1)
        ∧ sameOperands s t ∧ sameGrid s t ∧ t.cipher = s.cipher ∧ sameOutside s t

/-- R164, R165: `GENERATE` when the entropy source answers both draws. (That these answers are the settled ones at the
head of `entropyIn` is the model's form of the draw, log 3.) -/
def Obligations.GenerateConstructsCipher : Prop :=
  ∀ (s : State) (kb nb : Bytes) (rest : List (Option Bytes)), s.entropyIn = some kb :: some nb :: rest →
    kb.length = 32 → nb.length = 12 →
    ∃ t, exec .generate s = .next t ∧ t.succeeded 0
      ∧ t.cipher.valid = true ∧ t.cipher.origin = .generated ∧ t.cipher.encCount = 0
      ∧ t.cipher.key.toList = kb ∧ t.cipher.nonce.toList = nb
      ∧ sameBuffer s t ∧ sameOperands s t ∧ sameGrid s t ∧ sameOutside s t
      ∧ t.draws = s.draws ∧ t.entropyIn = rest

/-- R165: `GENERATE` on every state, whatever the entropy source answers: a whole new cipher, or `ENTROPY_ERROR` with
the slot kept; never anything else. -/
def Obligations.GenerateConstructsOrFails : Prop :=
  ∀ s : State, ∃ t, exec .generate s = .next t
    ∧ ((t.succeeded 0 ∧ t.cipher.valid = true ∧ t.cipher.origin = .generated ∧ t.cipher.encCount = 0)
        ∨ (t.failed .entropyError .none ∧ t.cipher = s.cipher))
    ∧ sameBuffer s t ∧ sameOperands s t ∧ sameGrid s t ∧ sameOutside s t

/-- R165, R247: under `ENTROPY_FRESH` of the two next answers (the form of log 16), the cipher that `GENERATE`
constructs is uniformly random and independent of all state: jointly with any condition on the rest of the state, every
key and nonce is as likely as every other. -/
def Obligations.FreshEntropyGivesUniformCipher : Prop :=
  ∀ (μ : PMF State) (rest : State → Prop) (key key' : Vector Byte 32) (nonce nonce' : Vector Byte 12),
    EntropyFresh 2 μ →
    let generated (k : Vector Byte 32) (n : Vector Byte 12) : Set State :=
      { s | rest { s with entropyIn := s.entropyIn.drop 2 } ∧
        ∃ t, exec .generate s = .next t ∧ t.err = .ok ∧ t.cipher.key = k ∧ t.cipher.nonce = n }
    μ.toOuterMeasure (generated key nonce) = μ.toOuterMeasure (generated key' nonce')

/-- R164, R166: `FROM_KEY` when the entropy source answers the nonce draw (the settled answer of log 3). -/
def Obligations.FromKeyConstructsCipher : Prop :=
  ∀ (s : State) (nb : Bytes) (rest : List (Option Bytes)), s.len = 32 → s.src + 32 ≤ s.params.bufSize →
    s.entropyIn = some nb :: rest → nb.length = 12 →
    ∃ t, exec .fromKey s = .next t ∧ t.succeeded 0
      ∧ t.cipher.valid = true ∧ t.cipher.origin = .keyMaterial ∧ t.cipher.encCount = 0
      ∧ t.cipher.key.toList = memRead s s.src 32 ∧ t.cipher.nonce.toList = nb
      ∧ sameBuffer s t ∧ sameOperands s t ∧ sameGrid s t ∧ sameOutside s t
      ∧ t.draws = s.draws ∧ t.entropyIn = rest

/-- R165, R166: when a draw of `GENERATE` or the draw of `FROM_KEY` fails, `ENTROPY_ERROR` is reported and the slot
kept (the settled answers of log 3); a failed key draw is not followed by a nonce draw (test vector K-4). -/
def Obligations.EntropyFailureKeepsCipher : Prop :=
  ∀ (s : State) (rest : List (Option Bytes)),
    (s.entropyIn = none :: rest →
      exec .generate s = .next { s.afterError .entropyError .none with entropyIn := rest })
    ∧ (∀ kb : Bytes, kb.length = 32 → s.entropyIn = some kb :: none :: rest →
      exec .generate s = .next { s.afterError .entropyError .none with entropyIn := rest })
    ∧ (s.len = 32 → s.src + 32 ≤ s.params.bufSize → s.entropyIn = none :: rest →
      exec .fromKey s = .next { s.afterError .entropyError .none with entropyIn := rest })

/-- R164, R167, R169: `FROM_ARTIFACT`. -/
def Obligations.FromArtifactConstructsCipher : Prop :=
  ∀ s : State, s.len = 44 → s.src + 44 ≤ s.params.bufSize →
    ∃ t, exec .fromArtifact s = .next t ∧ t.succeeded 0
      ∧ t.cipher.valid = true ∧ t.cipher.origin = .artifact ∧ t.cipher.encCount = 0
      ∧ t.cipher.key.toList = memRead s s.src 32 ∧ t.cipher.nonce.toList = memRead s (s.src + 32) 12
      ∧ sameBuffer s t ∧ sameOperands s t ∧ sameGrid s t ∧ sameOutside s t ∧ sameDraws s t

/-- R168, R169: `EXPORT`. -/
def Obligations.ExportWritesArtifact : Prop :=
  ∀ s : State, s.cipher.valid = true → s.dst + 44 ≤ s.params.bufSize →
    ∃ t, exec .exportArtifact s = .next t ∧ t.succeeded 44
      ∧ memRead t s.dst 32 = s.cipher.key.toList ∧ memRead t (s.dst + 32) 12 = s.cipher.nonce.toList
      ∧ sameBufferOutside s t s.dst 44
      ∧ sameOperands s t ∧ sameGrid s t ∧ t.cipher = s.cipher ∧ sameOutside s t ∧ sameDraws s t

/-- R169: the layout of the artifact, written by `EXPORT` and read by `FROM_ARTIFACT`; so `FROM_ARTIFACT` of an exported
artifact rebuilds the same key and nonce, on any block that holds those bytes. -/
def Obligations.ArtifactRebuildsCipher : Prop :=
  ∀ s : State, s.cipher.valid = true → s.dst + 44 ≤ s.params.bufSize →
    ∃ t, exec .exportArtifact s = .next t
      ∧ memRead t s.dst 32 = s.cipher.key.toList ∧ memRead t (s.dst + 32) 12 = s.cipher.nonce.toList
      ∧ ∀ s' : State, s'.len = 44 → s'.src + 44 ≤ s'.params.bufSize →
        ∃ u, exec .fromArtifact s' = .next u ∧ u.err = .ok
          ∧ u.cipher.key.toList = memRead s' s'.src 32 ∧ u.cipher.nonce.toList = memRead s' (s'.src + 32) 12
          ∧ (memRead s' s'.src 44 = memRead t s.dst 44 →
              u.cipher.key = s.cipher.key ∧ u.cipher.nonce = s.cipher.nonce)

/-- R160, R163, R170, R180: `ENCRYPT` with a cipher and in bounds: what `AEAD_SEAL` answers decides between the
ciphertext, with the use counted up to 255, and `CIPHER_HARD_ERROR`. -/
def Obligations.EncryptWritesCiphertext : Prop :=
  ∀ s : State, s.params.inRange → s.cipher.valid = true → s.rangesOk s.len (s.len + s.params.tagLen) →
    ∃ t, exec .encrypt s = .next t
      ∧ (∀ ct, aeadSeal s.params.tagLen s.cipher.key s.cipher.nonce (memRead s s.src s.len) = some ct →
          t.succeeded (s.len + s.params.tagLen) ∧ memRead t s.dst (s.len + s.params.tagLen) = ct
            ∧ t.cipher.encCount.toNat = min (s.cipher.encCount.toNat + 1) 255 ∧ sameDraws s t)
      ∧ (aeadSeal s.params.tagLen s.cipher.key s.cipher.nonce (memRead s s.src s.len) = none →
          t.failed .cipherHardError .none ∧ t.cipher.encCount = s.cipher.encCount)
      ∧ t.cipher.valid = true ∧ t.cipher.origin = s.cipher.origin
      ∧ t.cipher.key = s.cipher.key ∧ t.cipher.nonce = s.cipher.nonce
      ∧ sameBufferOutside s t s.dst (s.len + s.params.tagLen)
      ∧ sameOperands s t ∧ sameGrid s t ∧ sameOutside s t

/-- R161, R163, R181: `DECRYPT` with a cipher, in bounds, of at least a tag's length: what `AEAD_OPEN` answers decides
between the plaintext and `AUTHENTICATION_ERROR(TAG_MISMATCH)`. -/
def Obligations.DecryptWritesPlaintext : Prop :=
  ∀ s : State, s.params.inRange → s.cipher.valid = true → s.params.tagLen ≤ s.len →
    s.rangesOk s.len (s.len - s.params.tagLen) →
    ∃ t, exec .decrypt s = .next t
      ∧ (∀ pt, aeadOpen s.params.tagLen s.cipher.key s.cipher.nonce (memRead s s.src s.len) = some pt →
          t.succeeded (s.len - s.params.tagLen) ∧ memRead t s.dst (s.len - s.params.tagLen) = pt ∧ sameDraws s t)
      ∧ (aeadOpen s.params.tagLen s.cipher.key s.cipher.nonce (memRead s s.src s.len) = none →
          t.failed .authenticationError .tagMismatch)
      ∧ sameBufferOutside s t s.dst (s.len - s.params.tagLen)
      ∧ sameOperands s t ∧ sameGrid s t ∧ t.cipher = s.cipher ∧ sameOutside s t

/-- R181: `DECRYPT` of fewer bytes than a tag, in bounds, reports `SHORT_INPUT` and has no other effect. -/
def Obligations.DecryptReportsShortInput : Prop :=
  ∀ s : State, s.cipher.valid = true → s.len < s.params.tagLen → s.rangesOk s.len 0 →
    exec .decrypt s = .next (s.afterError .authenticationError .shortInput)

/-! ### The AEAD -/

/-- R160, R161: the two functions obey the laws a model may assume. -/
def Obligations.AeadIsLawful : Prop := LawfulAead aeadSeal aeadOpen

/-- Log 2, R14: the restrictions that make the functions lawful leave every lawful pair as it is, so they rule out no
AEAD; and they make every pair lawful. -/
def Obligations.EveryLawfulAeadIsAdmitted : Prop :=
  (∀ sealed opened, LawfulAead sealed opened → lawfulOpen opened = opened ∧ lawfulSeal sealed opened = sealed)
    ∧ ∀ sealRaw openRaw, LawfulAead (lawfulSeal sealRaw (lawfulOpen openRaw)) (lawfulOpen openRaw)

/-- R182: if `ENCRYPT` succeeds, a `DECRYPT` of what it wrote with the same key and nonce, within its bounds, succeeds
and writes the plaintext. The key and nonce are the same on the slot that `ENCRYPT` left, and after `FROM_ARTIFACT` of
an artifact that cipher exported. -/
def Obligations.DecryptInvertsEncrypt : Prop :=
  ∀ s : State, s.params.inRange → s.cipher.valid = true → s.rangesOk s.len (s.len + s.params.tagLen) →
    ∃ t, exec .encrypt s = .next t
      ∧ t.cipher.key = s.cipher.key ∧ t.cipher.nonce = s.cipher.nonce
      ∧ (t.err = .ok → ∀ s' : State, s'.params = s.params → s'.cipher.valid = true →
          s'.cipher.key = s.cipher.key → s'.cipher.nonce = s.cipher.nonce →
          s'.len = s.len + s.params.tagLen →
          memRead s' s'.src s'.len = memRead t s.dst (s.len + s.params.tagLen) → s'.rangesOk s'.len s.len →
          ∃ u, exec .decrypt s' = .next u ∧ u.succeeded s.len ∧ memRead u s'.dst s.len = memRead s s.src s.len)
      ∧ ∀ x : State, x.cipher = t.cipher → x.dst + 44 ≤ x.params.bufSize →
          ∃ y, exec .exportArtifact x = .next y ∧
            ∀ z : State, z.len = 44 → z.src + 44 ≤ z.params.bufSize →
              memRead z z.src 44 = memRead y x.dst 44 →
              ∃ v, exec .fromArtifact z = .next v ∧ v.cipher.valid = true
                ∧ v.cipher.key = s.cipher.key ∧ v.cipher.nonce = s.cipher.nonce

/-! ### Host accesses -/

/-- R24, R25, R26, R28, R39, R47: what a 32-bit read of each register answers, with no other effect; the fields of the
status words at their bits, every reserved bit 0. -/
def Obligations.RegisterReadsAnswer : Prop :=
  ∀ (s : State) (rest : List Input) (o : BitVec 21) (v : Word), s.inputNext (.bus (.read .w32 o)) rest →
    s.params.inRange →
    ((o = 0x000 ∧ v = 0x0C2055FF)
      ∨ (o = 0x004 ∧ v.toNat = (if s.params.fillerCheck then 65536 else 0) + 0x2C * 256 + s.params.tagLen)
      ∨ (o = 0x008 ∧ v.toNat = s.params.bufSize)
      ∨ (o = 0x00C ∧ v = 0)
      ∨ (o = 0x010 ∧ v.toNat = (if s.done then 2 else 0) + 256 * s.err.code.toNat + 4096 * s.cause.code.toNat)
      ∨ (o = 0x014 ∧ v = s.srcAddr) ∨ (o = 0x018 ∧ v = s.srcLen) ∨ (o = 0x01C ∧ v = s.dstAddr)
      ∨ (o = 0x020 ∧ v = s.resultLen) ∨ (o = 0x024 ∧ v = s.gridW) ∨ (o = 0x028 ∧ v = s.gridH)
      ∨ (o = 0x02C ∧ v.toNat = (if s.cipher.valid then 1 else 0) + 2 * s.cipher.origin.code.toNat
          + 256 * s.cipher.encCount.toNat)) →
    step s = .next { s with inputs := rest, replies := .data v :: s.replies }

/-- R47: a write of a read-only register changes nothing; a write of a writable one stores all 32 bits and nothing
else; a read of `CMD` answers 0; reserved bits read 0; a register access that is not an aligned 32-bit one is a bus
error. (That the run goes on after it, with `bus_fault` set, is log 8.) -/
def Obligations.RegisterAccessRules : Prop :=
  ∀ (s : State) (rest : List Input) (v : Word),
    (∀ o : BitVec 21, o ∈ [0x000, 0x004, 0x008, 0x010, 0x020, 0x02C] →
      s.inputNext (.bus (.write .w32 o v)) rest →
      step s = .next { s with inputs := rest, replies := .done :: s.replies })
    ∧ (s.inputNext (.bus (.write .w32 0x014 v)) rest →
      step s = .next { s with srcAddr := v, inputs := rest, replies := .done :: s.replies })
    ∧ (s.inputNext (.bus (.write .w32 0x018 v)) rest →
      step s = .next { s with srcLen := v, inputs := rest, replies := .done :: s.replies })
    ∧ (s.inputNext (.bus (.write .w32 0x01C v)) rest →
      step s = .next { s with dstAddr := v, inputs := rest, replies := .done :: s.replies })
    ∧ (s.inputNext (.bus (.write .w32 0x024 v)) rest →
      step s = .next { s with gridW := v, inputs := rest, replies := .done :: s.replies })
    ∧ (s.inputNext (.bus (.write .w32 0x028 v)) rest →
      step s = .next { s with gridH := v, inputs := rest, replies := .done :: s.replies })
    ∧ (s.inputNext (.bus (.read .w32 0x00C)) rest →
      step s = .next { s with inputs := rest, replies := .data 0 :: s.replies })
    ∧ (∀ (o : BitVec 21) (reserved : Word),
      (o, reserved) ∈ [(0x004, 0xFFFE0000), (0x010, 0xFFFF00FC), (0x02C, 0xFFFF00F8)] →
      s.inputNext (.bus (.read .w32 o)) rest →
      ∃ x : Word, step s = .next { s with inputs := rest, replies := .data x :: s.replies } ∧ x &&& reserved = 0)
    ∧ (∀ (width : Width) (o : BitVec 21), o.toNat < 0x030 → width ≠ .w32 ∨ o.toNat % 4 ≠ 0 →
      s.inputNext (.bus (.read width o)) rest ∨ s.inputNext (.bus (.write width o v)) rest →
      step s = .next { s with inputs := rest, busFault := true, replies := .busError :: s.replies })

/-- R27, R44: a write of `CMD` latches the word (so `BUSY` = 1), clears `DONE`, and leaves every other register, the
buffer and the cipher slot alone. -/
def Obligations.CmdWriteStartsCommand : Prop :=
  ∀ (s : State) (rest : List Input) (w : Word), s.inputNext (.bus (.write .w32 0x00C w)) rest →
    ∃ t, step s = .next t ∧ t.inflight = some w ∧ t.busy = true ∧ t.done = false ∧ t.err = s.err
      ∧ t.cause = s.cause ∧ t.resultLen = s.resultLen ∧ sameOperands s t ∧ sameGrid s t ∧ t.cipher = s.cipher
      ∧ sameBuffer s t ∧ t.busFault = s.busFault ∧ t.params = s.params ∧ t.inputs = rest
      ∧ t.replies = .done :: s.replies

/-- R63: the buffer window is little-endian: a write of `width` bits at an aligned offset stores byte `j` of the data
at `a + j` and changes no other byte, and a read answers the word with those bytes, widened with zeros (the form of log 13). -/
def Obligations.BufferWindowIsLittleEndian : Prop :=
  ∀ (s : State) (rest : List Input) (width : Width) (o : BitVec 21) (a : Nat),
    o.toNat = 0x100000 + a → a + width.bytes ≤ s.params.bufSize → a % width.bytes = 0 →
    (∀ v : Word, s.inputNext (.bus (.write width o v)) rest →
      ∃ t, step s = .next t ∧ (∀ j, j < width.bytes → t.readByte (a + j) = v.extractLsb' (8 * j) 8)
        ∧ sameBufferOutside s t a width.bytes
        ∧ t = { s with buf := t.buf, inputs := rest, replies := .done :: s.replies })
    ∧ (s.inputNext (.bus (.read width o)) rest →
      ∃ v : Word, step s = .next { s with inputs := rest, replies := .data v :: s.replies }
        ∧ (∀ j, j < width.bytes → v.extractLsb' (8 * j) 8 = s.readByte (a + j))
        ∧ v.toNat < 2 ^ (8 * width.bytes))

/-- R64, R66, R67, R240: an unmapped or misaligned access is a bus error: it sets the sticky `bus_fault`, answers no
value, and changes nothing else of the block. (That the run goes on after it is log 8.) -/
def Obligations.IllegalAccessIsBusError : Prop :=
  ∀ (s : State) (rest : List Input) (width : Width) (o : BitVec 21) (v : Word),
    (0x030 ≤ o.toNat ∧ o.toNat < 0x100000) ∨ 0x100000 + s.params.bufSize ≤ o.toNat
      ∨ (0x100000 ≤ o.toNat ∧ o.toNat % width.bytes ≠ 0)
      ∨ (o.toNat < 0x030 ∧ (width ≠ .w32 ∨ o.toNat % 4 ≠ 0)) →
    s.inputNext (.bus (.read width o)) rest ∨ s.inputNext (.bus (.write width o v)) rest →
    step s = .next { s with inputs := rest, busFault := true, replies := .busError :: s.replies }

/-- R60, R66, R248: the bus map by bus address: `BASE` + offset is the address of each offset, no other address is the
block's, and no address is that of two blocks with different `BASE`. An access by a bus address that is the block's next
reaches the register, the buffer byte, or nothing, as the map has it; one to an address that is not the block's is none
of its inputs (log 17), and a bus error does not end the run (log 8). -/
def Obligations.BusMapIsRelativeToBase : Prop :=
  (∀ (p : Params) (address : Word) (o : BitVec 21), p.inRange →
      (p.busAddress o).toNat = p.base.toNat + o.toNat
        ∧ (p.offsetOf address = some o ↔ address.toNat = p.base.toNat + o.toNat))
    ∧ (∀ (p q : Params) (address : Word), p.inRange → q.inRange → p.base ≠ q.base → p.offsetOf address ≠ none →
        q.offsetOf address = none)
    ∧ ∀ (s : State) (address : Word) (later : List AddressedAccess), s.params.inRange → s.inflight = none →
        (∀ o, o < 0x030 → o % 4 = 0 → address.toNat = s.params.base.toNat + o →
          s.inputs = routeToBlock s.params (.read .w32 address :: later) →
          step s = .next { s with inputs := routeToBlock s.params later,
                                  replies := .data (readRegister s o) :: s.replies })
        ∧ (∀ a, a < s.params.bufSize → address.toNat = s.params.base.toNat + 0x100000 + a →
          s.inputs = routeToBlock s.params (.read .w8 address :: later) →
          step s = .next { s with inputs := routeToBlock s.params later,
                                  replies := .data ((s.readByte a).setWidth 32) :: s.replies })
        ∧ (∀ o, (0x030 ≤ o ∧ o < 0x100000) ∨ (0x100000 + s.params.bufSize ≤ o ∧ o < 0x200000) →
          address.toNat = s.params.base.toNat + o →
          ∀ (width : Width) (v : Word), s.inputs = routeToBlock s.params (.read width address :: later)
            ∨ s.inputs = routeToBlock s.params (.write width address v :: later) →
          step s = .next { s with inputs := routeToBlock s.params later, busFault := true,
                                  replies := .busError :: s.replies })
        ∧ (address.toNat < s.params.base.toNat ∨ s.params.base.toNat + 0x200000 ≤ address.toNat →
          ∀ (width : Width) (v : Word), routeToBlock s.params (.read width address :: later) = routeToBlock s.params later
            ∧ routeToBlock s.params (.write width address v :: later) = routeToBlock s.params later)

/-- R71: while a command is in flight, a host access that is not a 32-bit read of `STATUS` is not performed and the
host does not advance: the step is the engine's, and after it the access is still to come. -/
def Obligations.AccessHoldsWhileBusy : Prop :=
  ∀ (s : State) (w : Word) (a : Access) (rest : List Input), s.inflight = some w → s.inputs = .bus a :: rest →
    a ≠ .read .w32 0x010 →
    ∃ t, step s = .next t ∧ t.inflight = none ∧ t.inputs = .bus a :: rest ∧ t.replies = s.replies
      ∧ t.busFault = s.busFault

/-- R29, R71: a 32-bit read of `STATUS` that comes before the engine's step is performed at once and answers `BUSY` = 1,
`DONE` = 0 and the `ERR` and `CAUSE` of the previous command; the command stays in flight. -/
def Obligations.StatusReadPassesWhileBusy : Prop :=
  ∀ (s : State) (w : Word) (rest : List Input), s.inflight = some w → s.done = false → 0 < s.pollBudget →
    s.inputs = .bus (.read .w32 0x010) :: rest →
    ∃ v : Word, v.toNat = 1 + 256 * s.err.code.toNat + 4096 * s.cause.code.toNat
      ∧ step s = .next { s with inputs := rest, replies := .data v :: s.replies, pollBudget := s.pollBudget - 1 }

/-- R72, R274: a command in flight ends in finitely many steps, whatever the host does: at most one more than the
accesses that may still come first. -/
def Obligations.CommandEndsWithinBudget : Prop :=
  ∀ (s : State) (w : Word), s.inflight = some w →
    ∃ k t, k ≤ s.pollBudget + 1 ∧ Host.Core.run Sys2Proof.core k s = .next t ∧ State.inflight t = none

/-- R102, R205: with no command in flight, `WAIT` goes on after one read of `STATUS`, and the stop-on-error check goes
on after one read if `ERR` = 0 and leaves out the rest of the sequence if not. (The counted rest is the model's form
of a sequence, log 19.) -/
def Obligations.WaitAndStopOnError : Prop :=
  ∀ (s : State) (rest : List Input) (skip : Nat),
    (s.inputNext .wait rest →
      step s = .next { s with inputs := rest, replies := .data (statusWord s) :: s.replies })
    ∧ (s.inputNext (.stopOnError skip) rest → s.err = .ok →
      step s = .next { s with inputs := rest, replies := .data (statusWord s) :: s.replies })
    ∧ (s.inputNext (.stopOnError skip) rest → s.err ≠ .ok →
      step s = .next { s with inputs := rest.drop skip, replies := .data (statusWord s) :: s.replies })

/-! ### Reset -/

/-- R260: what reset leaves in every register, in the key and nonce, in flight and in `bus_fault`, at power-on and
later alike, also when it comes while a command is in flight, which does not complete (R262). (What stands outside the
block is kept: log 20. That it comes before the engine's step where some poll still may is log 7.) -/
def Obligations.ResetLeavesStatedValues : Prop :=
  let stated (t : State) : Prop :=
    t.srcAddr = 0 ∧ t.srcLen = 0 ∧ t.dstAddr = 0 ∧ t.resultLen = 0 ∧ t.gridW = 0 ∧ t.gridH = 0
      ∧ statusWord t = 0 ∧ cipherStatusWord t = 0 ∧ t.busy = false ∧ t.done = false ∧ t.cipher.valid = false
      ∧ t.cipher.origin = .none ∧ t.cipher.encCount = 0 ∧ t.cipher.key.toList = List.replicate 32 0
      ∧ t.cipher.nonce.toList = List.replicate 12 0 ∧ t.inflight = none ∧ t.busFault = false
  stated State.reset
    ∧ ∀ (s : State) (rest : List Input), s.inputs = .reset :: rest → s.inflight = none ∨ 0 < s.pollBudget →
      ∃ t, step s = .next t ∧ stated t ∧ config0Word = 0x0C2055FF ∧ t.params = s.params ∧ t.inputs = rest
        ∧ t.replies = s.replies

/-! ### The whole machine -/

/-- R14, R27, R28, R36, R39, R43, R66, R221, R260: every step keeps the invariant: parameters in range with `BASE`
aligned (carried in the state as logs 1 and 17 say), memory inside the buffer and in the model's canonical form (log 5),
legal status fields, `VALID` = 0 iff `ORIGIN` = 0 with a zeroised slot. -/
def Obligations.InvariantKeptByEveryStep : Prop := ∀ s t : State, s.inv → step s = .next t → t.inv

/-- R14, R66, R260: the invariant holds right after reset. (That `TAG_LEN` there is a free value between 1 and 255 is
log 1, that `BASE` is a free aligned one log 17, and that the memory, which lists no byte, is in canonical form log 5.) -/
def Obligations.InvariantHoldsAtReset : Prop := State.reset.inv

/-- R42, R164, R180, R260: the cipher slot changes only by reset, by a construction that succeeds, or by the count of a
successful `ENCRYPT`; each of these does write it. A construction that succeeds replaces it whole: the key and the
nonce are those the command read or drew (a draw in the form of log 3), and the new slot is the same whatever the old
one held. (When a reset comes before the engine's step is log 20.) -/
def Obligations.CipherSlotChangesOnlyAsStated : Prop :=
  let constructions := [(Instr.generate, Origin.generated), (.fromKey, .keyMaterial), (.fromArtifact, .artifact)]
  ∀ s t : State, step s = .next t →
    (t.cipher = s.cipher ∨ s.resetNext
      ∨ (∃ w i o, s.engineNext w ∧ decodeWord w = .ok i ∧ t.err = .ok ∧ (i, o) ∈ constructions)
      ∨ (∃ w, s.engineNext w ∧ decodeWord w = .ok .encrypt ∧ t.err = .ok))
    ∧ (s.resetNext → t.cipher = CipherSlot.empty)
    ∧ (∀ w i o, s.engineNext w → decodeWord w = .ok i → t.err = .ok → (i, o) ∈ constructions →
        t.cipher.valid = true ∧ t.cipher.origin = o ∧ t.cipher.encCount = 0
        ∧ (i = .generate → (drawEntropy 32 s).1 = some t.cipher.key
            ∧ (drawEntropy 12 (drawEntropy 32 s).2).1 = some t.cipher.nonce)
        ∧ (i = .fromKey → t.cipher.key.toList = memRead s s.src 32 ∧ (drawEntropy 12 s).1 = some t.cipher.nonce)
        ∧ (i = .fromArtifact → t.cipher.key.toList = memRead s s.src 32
            ∧ t.cipher.nonce.toList = memRead s (s.src + 32) 12)
        ∧ ∀ old : CipherSlot, step { s with cipher := old } = .next t)
    ∧ (∀ w, s.engineNext w → decodeWord w = .ok .encrypt → t.err = .ok → s.cipher.valid = true
        ∧ t.cipher = { s.cipher with encCount := BitVec.ofNat 8 (min (s.cipher.encCount.toNat + 1) 255) })

/-- R37, R38: `GRID_W` and `GRID_H` are written by the host, by a successful `ENCODE`, by reset, and by nothing else;
and a successful `ENCODE` does write both. -/
def Obligations.GridRegistersWrittenOnlyAsStated : Prop :=
  ∀ s t : State, step s = .next t →
    (sameGrid s t
    ∨ (s.resetNext ∧ t.gridW = 0 ∧ t.gridH = 0)
    ∨ (∃ w, s.engineNext w ∧ decodeWord w = .ok .encode ∧ t.err = .ok ∧ t.gridW = 85
        ∧ t.gridH.toNat = s.len / 255 + 1)
    ∨ (∃ v rest, s.inputNext (.bus (.write .w32 0x024 v)) rest ∧ t.gridW = v ∧ t.gridH = s.gridH)
    ∨ (∃ v rest, s.inputNext (.bus (.write .w32 0x028 v)) rest ∧ t.gridH = v ∧ t.gridW = s.gridW))
    ∧ ∀ w, s.engineNext w → decodeWord w = .ok .encode → t.err = .ok → t.gridW = 85 ∧ t.gridH.toNat = s.len / 255 + 1

/-- R31: `ERR` and `CAUSE` change only when a command completes or at reset; a success writes both to 0; and every
completion writes both: what it leaves does not depend on what they held. -/
def Obligations.ErrorFieldsWrittenOnlyAtCompletion : Prop :=
  ∀ s t : State, step s = .next t →
    ((t.err = s.err ∧ t.cause = s.cause)
    ∨ (s.resetNext ∧ t.err = .ok ∧ t.cause = .none)
    ∨ ((∃ w, s.engineNext w) ∧ t.inflight = none ∧ t.done = true ∧ (t.err = .ok → t.cause = .none)))
    ∧ ∀ (w : Word) (e : ErrCode) (c : Cause), s.engineNext w →
        step { s with err := e, cause := c } = .next t ∧ (t.err = .ok → t.cause = .none)

/-- R48, R64: `bus_fault`, once set, stays set until reset. -/
def Obligations.BusFaultIsSticky : Prop :=
  ∀ s t : State, step s = .next t → s.busFault = true → t.busFault = true ∨ s.resetNext

/-- R40, R41: the key and nonce are not mapped on the bus: while no command is in flight, a step that is not the reset
does the same and answers the host the same whatever they are, and leaves them. -/
def Obligations.KeyIsNotOnTheBus : Prop :=
  ∀ (s t : State) (key : Vector Byte 32) (nonce : Vector Byte 12), s.inflight = none →
    s.inputs.head? ≠ some .reset → step s = .next t →
    step { s with cipher := { s.cipher with key := key, nonce := nonce } }
      = .next { t with cipher := { t.cipher with key := key, nonce := nonce } }

/-- R148: `ENCODE` and `DECODE` ask for no entropy, leave the cipher alone, and give the same result on two blocks
with the same parameters that agree on the operand registers and the source bytes. -/
def Obligations.CodecDependsOnSourceAlone : Prop :=
  ∀ (i : Instr) (s s' t t' : State),
    (i = .encode ∧ memRead s s.src s.len = memRead s' s.src s.len)
      ∨ (i = .decode ∧ memRead s s.src (255 * s.gridH.toNat) = memRead s' s.src (255 * s.gridH.toNat)) →
    s'.params = s.params → sameOperands s s' → sameGrid s s' →
    exec i s = .next t → exec i s' = .next t' →
    t'.err = t.err ∧ t'.cause = t.cause ∧ t'.resultLen = t.resultLen ∧ sameGrid t t'
      ∧ (t.err = .ok → memRead t' s.dst t.resultLen.toNat = memRead t s.dst t.resultLen.toNat)
      ∧ t.entropyIn = s.entropyIn ∧ t.cipher = s.cipher

/-! ### Orchestration -/

/-- R201 to R204: the sequences are the expansions the spec gives, each command followed by the stop-on-error read of
R205. -/
def Obligations.SequencesExpandAsStated : Prop :=
  (∀ src len grid, plainImage src len grid =
    [w32 0x014 (BitVec.ofNat 32 src), w32 0x018 (BitVec.ofNat 32 len), w32 0x01C (BitVec.ofNat 32 grid),
     w32 0x00C 0x00000003, .stopOnError 0])
  ∧ (∀ grid w h out, plainOpen grid w h out =
    [w32 0x024 (BitVec.ofNat 32 w), w32 0x028 (BitVec.ofNat 32 h), w32 0x014 (BitVec.ofNat 32 grid),
     w32 0x018 0, w32 0x01C (BitVec.ofNat 32 out), w32 0x00C 0x00000004, .stopOnError 0])
  ∧ (∀ tagLen src len tmp grid art, sealImage tagLen src len tmp grid art =
    [w32 0x00C 0x00000010, .stopOnError 13,
     w32 0x01C (BitVec.ofNat 32 art), w32 0x00C 0x00000013, .stopOnError 10,
     w32 0x014 (BitVec.ofNat 32 src), w32 0x018 (BitVec.ofNat 32 len), w32 0x01C (BitVec.ofNat 32 tmp),
     w32 0x00C 0x00000014, .stopOnError 5,
     w32 0x014 (BitVec.ofNat 32 tmp), w32 0x018 (BitVec.ofNat 32 (len + tagLen)), w32 0x01C (BitVec.ofNat 32 grid),
     w32 0x00C 0x00000003, .stopOnError 0])
  ∧ (∀ grid w h art tmp out, openImage grid w h art tmp out =
    [w32 0x014 (BitVec.ofNat 32 art), w32 0x018 44, w32 0x00C 0x00000012, .stopOnError 11,
     w32 0x024 (BitVec.ofNat 32 w), w32 0x028 (BitVec.ofNat 32 h), w32 0x014 (BitVec.ofNat 32 grid),
     w32 0x018 0, w32 0x01C (BitVec.ofNat 32 tmp), w32 0x00C 0x00000004, .stopOnError 4,
     .sourceFromResult (BitVec.ofNat 32 tmp), w32 0x01C (BitVec.ofNat 32 out), w32 0x00C 0x00000015,
     .stopOnError 0])

/-- R203: the step of `OPEN_IMAGE` that reads `RESULT_LEN` and makes it the next source length. -/
def Obligations.SourceFromResultReadsLength : Prop :=
  ∀ (s : State) (rest : List Input) (tmp : Word), s.inputNext (.sourceFromResult tmp) rest →
    ∃ t, Host.Core.run Sys2Proof.core 3 s = .next t
      ∧ t = { s with srcAddr := tmp, srcLen := s.resultLen, inputs := rest,
                     replies := .done :: .done :: .data s.resultLen :: s.replies }

/-- R207: `PLAIN_IMAGE` then `PLAIN_OPEN` on the grid it wrote, run from any idle state with in-bounds ranges that do
not overlap where a command reads and writes, ends without error and restores the source bytes, for every length. -/
def Obligations.PlainRoundTripRestoresBytes : Prop :=
  ∀ (s : State) (src len grid out : Nat), s.params.inRange → s.inflight = none →
    s.inputs = plainImage src len grid ++ plainOpen grid 85 (len / 255 + 1) out →
    src + len ≤ s.params.bufSize → grid + 255 * (len / 255 + 1) ≤ s.params.bufSize →
    out + (255 * (len / 255 + 1) - 1) ≤ s.params.bufSize →
    (len = 0 ∨ grid + 255 * (len / 255 + 1) ≤ src ∨ src + len ≤ grid) →
    (out + (255 * (len / 255 + 1) - 1) ≤ grid ∨ grid + 255 * (len / 255 + 1) ≤ out) →
    ∃ k t, Host.Core.run Sys2Proof.core k s = .next t ∧ State.inputs t = [] ∧ State.succeeded t len
      ∧ memRead t out len = memRead s src len

/-- R201, R206: `SEAL_IMAGE` within its bounds and with ranges that do not overlap runs to its end from any idle state;
with settled entropy (log 3) and an `AEAD_SEAL` that answers it ends without error. If it ends without error the grid
registers, the count and the artifact are those of R201, and `OPEN_IMAGE` of the same grid and artifact bytes, on this
block or on another with the same `TAG_LEN`, ends without error and restores the source bytes. -/
def Obligations.SealedRoundTripRestoresBytes : Prop :=
  ∀ (s : State) (src len tmp grid art tag rows : Nat), s.params.inRange → s.inflight = none →
    tag = s.params.tagLen → rows = (len + tag) / 255 + 1 →
    s.inputs = sealImage tag src len tmp grid art →
    src + len ≤ s.params.bufSize → tmp + (len + tag) ≤ s.params.bufSize →
    grid + 255 * rows ≤ s.params.bufSize → art + 44 ≤ s.params.bufSize →
    rangesDisjoint src len tmp (len + tag) → rangesDisjoint src len art 44 →
    rangesDisjoint tmp (len + tag) grid (255 * rows) → rangesDisjoint tmp (len + tag) art 44 →
    rangesDisjoint grid (255 * rows) art 44 →
    ∃ (k : Nat) (t : State), Host.Core.run Sys2Proof.core k s = .next t ∧ t.inputs = [] ∧ t.inflight = none
      ∧ (∀ key nonce rest ct, s.entropyIn = some key.toList :: some nonce.toList :: rest →
          aeadSeal tag key nonce (memRead s src len) = some ct → t.err = .ok)
      ∧ (t.err = .ok →
          t.gridW = 85 ∧ t.gridH.toNat = rows ∧ t.cipher.encCount = 1 ∧ memRead t art 44 = keyArtifact t.cipher
          ∧ ∀ (s' : State) (grid' art' tmp' out : Nat), s'.params.inRange → s'.params.tagLen = tag →
              s'.inflight = none → s'.inputs = openImage grid' 85 rows art' tmp' out →
              memRead s' grid' (255 * rows) = memRead t grid (255 * rows) →
              memRead s' art' 44 = memRead t art 44 →
              grid' + 255 * rows ≤ s'.params.bufSize → art' + 44 ≤ s'.params.bufSize →
              tmp' + (255 * rows - 1) ≤ s'.params.bufSize → out + len ≤ s'.params.bufSize →
              rangesDisjoint grid' (255 * rows) tmp' (255 * rows - 1) → rangesDisjoint tmp' (len + tag) out len →
              ∃ (k' : Nat) (u : State), Host.Core.run Sys2Proof.core k' s' = .next u ∧ u.inputs = []
                ∧ u.succeeded len ∧ memRead u out len = memRead s src len)
end

