-- ==== Sys2Proof/Laws/State.lean ====
section
/-! SUPPORT. One lemma per field of `State` and per operation that updates it, so that no later proof unfolds a record
update. -/

namespace Sys2Proof.Machine

section
variable (s : State)

@[simp] theorem memWrite_srcAddr (a : Nat) (bs : Bytes) : (memWrite a bs s).srcAddr = s.srcAddr := rfl
@[simp] theorem memWrite_srcLen (a : Nat) (bs : Bytes) : (memWrite a bs s).srcLen = s.srcLen := rfl
@[simp] theorem memWrite_dstAddr (a : Nat) (bs : Bytes) : (memWrite a bs s).dstAddr = s.dstAddr := rfl
@[simp] theorem memWrite_resultLen (a : Nat) (bs : Bytes) : (memWrite a bs s).resultLen = s.resultLen := rfl
@[simp] theorem memWrite_gridW (a : Nat) (bs : Bytes) : (memWrite a bs s).gridW = s.gridW := rfl
@[simp] theorem memWrite_gridH (a : Nat) (bs : Bytes) : (memWrite a bs s).gridH = s.gridH := rfl
@[simp] theorem memWrite_done (a : Nat) (bs : Bytes) : (memWrite a bs s).done = s.done := rfl
@[simp] theorem memWrite_err (a : Nat) (bs : Bytes) : (memWrite a bs s).err = s.err := rfl
@[simp] theorem memWrite_cause (a : Nat) (bs : Bytes) : (memWrite a bs s).cause = s.cause := rfl
@[simp] theorem memWrite_cipher (a : Nat) (bs : Bytes) : (memWrite a bs s).cipher = s.cipher := rfl
@[simp] theorem memWrite_buf (a : Nat) (bs : Bytes) : (memWrite a bs s).buf = Memory.store s.buf a bs := rfl
@[simp] theorem memWrite_inflight (a : Nat) (bs : Bytes) : (memWrite a bs s).inflight = s.inflight := rfl
@[simp] theorem memWrite_busFault (a : Nat) (bs : Bytes) : (memWrite a bs s).busFault = s.busFault := rfl
@[simp] theorem memWrite_params (a : Nat) (bs : Bytes) : (memWrite a bs s).params = s.params := rfl
@[simp] theorem memWrite_bufEpoch (a : Nat) (bs : Bytes) : (memWrite a bs s).bufEpoch = s.bufEpoch := rfl
@[simp] theorem memWrite_draws (a : Nat) (bs : Bytes) : (memWrite a bs s).draws = s.draws := rfl
@[simp] theorem memWrite_pollBudget (a : Nat) (bs : Bytes) : (memWrite a bs s).pollBudget = s.pollBudget := rfl
@[simp] theorem memWrite_entropyIn (a : Nat) (bs : Bytes) : (memWrite a bs s).entropyIn = s.entropyIn := rfl
@[simp] theorem memWrite_inputs (a : Nat) (bs : Bytes) : (memWrite a bs s).inputs = s.inputs := rfl
@[simp] theorem memWrite_replies (a : Nat) (bs : Bytes) : (memWrite a bs s).replies = s.replies := rfl

@[simp] theorem completeCommand_srcAddr : (completeCommand s).srcAddr = s.srcAddr := rfl
@[simp] theorem completeCommand_srcLen : (completeCommand s).srcLen = s.srcLen := rfl
@[simp] theorem completeCommand_dstAddr : (completeCommand s).dstAddr = s.dstAddr := rfl
@[simp] theorem completeCommand_resultLen : (completeCommand s).resultLen = s.resultLen := rfl
@[simp] theorem completeCommand_gridW : (completeCommand s).gridW = s.gridW := rfl
@[simp] theorem completeCommand_gridH : (completeCommand s).gridH = s.gridH := rfl
@[simp] theorem completeCommand_done : (completeCommand s).done = true := rfl
@[simp] theorem completeCommand_err : (completeCommand s).err = s.err := rfl
@[simp] theorem completeCommand_cause : (completeCommand s).cause = s.cause := rfl
@[simp] theorem completeCommand_cipher : (completeCommand s).cipher = s.cipher := rfl
@[simp] theorem completeCommand_buf : (completeCommand s).buf = s.buf := rfl
@[simp] theorem completeCommand_inflight : (completeCommand s).inflight = none := rfl
@[simp] theorem completeCommand_busFault : (completeCommand s).busFault = s.busFault := rfl
@[simp] theorem completeCommand_params : (completeCommand s).params = s.params := rfl
@[simp] theorem completeCommand_bufEpoch : (completeCommand s).bufEpoch = s.bufEpoch := rfl
@[simp] theorem completeCommand_draws : (completeCommand s).draws = s.draws := rfl
@[simp] theorem completeCommand_pollBudget : (completeCommand s).pollBudget = s.pollBudget := rfl
@[simp] theorem completeCommand_entropyIn : (completeCommand s).entropyIn = s.entropyIn := rfl
@[simp] theorem completeCommand_inputs : (completeCommand s).inputs = s.inputs := rfl
@[simp] theorem completeCommand_replies : (completeCommand s).replies = s.replies := rfl

@[simp] theorem raiseError_srcAddr (e : ErrCode) (c : Cause) : (raiseError e c s).srcAddr = s.srcAddr := rfl
@[simp] theorem raiseError_srcLen (e : ErrCode) (c : Cause) : (raiseError e c s).srcLen = s.srcLen := rfl
@[simp] theorem raiseError_dstAddr (e : ErrCode) (c : Cause) : (raiseError e c s).dstAddr = s.dstAddr := rfl
@[simp] theorem raiseError_resultLen (e : ErrCode) (c : Cause) : (raiseError e c s).resultLen = 0 := rfl
@[simp] theorem raiseError_gridW (e : ErrCode) (c : Cause) : (raiseError e c s).gridW = s.gridW := rfl
@[simp] theorem raiseError_gridH (e : ErrCode) (c : Cause) : (raiseError e c s).gridH = s.gridH := rfl
@[simp] theorem raiseError_done (e : ErrCode) (c : Cause) : (raiseError e c s).done = true := rfl
@[simp] theorem raiseError_err (e : ErrCode) (c : Cause) : (raiseError e c s).err = e := rfl
@[simp] theorem raiseError_cause (e : ErrCode) (c : Cause) : (raiseError e c s).cause = c := rfl
@[simp] theorem raiseError_cipher (e : ErrCode) (c : Cause) : (raiseError e c s).cipher = s.cipher := rfl
@[simp] theorem raiseError_buf (e : ErrCode) (c : Cause) : (raiseError e c s).buf = s.buf := rfl
@[simp] theorem raiseError_inflight (e : ErrCode) (c : Cause) : (raiseError e c s).inflight = none := rfl
@[simp] theorem raiseError_busFault (e : ErrCode) (c : Cause) : (raiseError e c s).busFault = s.busFault := rfl
@[simp] theorem raiseError_params (e : ErrCode) (c : Cause) : (raiseError e c s).params = s.params := rfl
@[simp] theorem raiseError_bufEpoch (e : ErrCode) (c : Cause) : (raiseError e c s).bufEpoch = s.bufEpoch := rfl
@[simp] theorem raiseError_draws (e : ErrCode) (c : Cause) : (raiseError e c s).draws = s.draws := rfl
@[simp] theorem raiseError_pollBudget (e : ErrCode) (c : Cause) : (raiseError e c s).pollBudget = s.pollBudget := rfl
@[simp] theorem raiseError_entropyIn (e : ErrCode) (c : Cause) : (raiseError e c s).entropyIn = s.entropyIn := rfl
@[simp] theorem raiseError_inputs (e : ErrCode) (c : Cause) : (raiseError e c s).inputs = s.inputs := rfl
@[simp] theorem raiseError_replies (e : ErrCode) (c : Cause) : (raiseError e c s).replies = s.replies := rfl

@[simp] theorem finishCommand_srcAddr (len : Nat) : (finishCommand len s).srcAddr = s.srcAddr := rfl
@[simp] theorem finishCommand_srcLen (len : Nat) : (finishCommand len s).srcLen = s.srcLen := rfl
@[simp] theorem finishCommand_dstAddr (len : Nat) : (finishCommand len s).dstAddr = s.dstAddr := rfl
@[simp] theorem finishCommand_resultLen (len : Nat) : (finishCommand len s).resultLen = BitVec.ofNat 32 len := rfl
@[simp] theorem finishCommand_gridW (len : Nat) : (finishCommand len s).gridW = s.gridW := rfl
@[simp] theorem finishCommand_gridH (len : Nat) : (finishCommand len s).gridH = s.gridH := rfl
@[simp] theorem finishCommand_done (len : Nat) : (finishCommand len s).done = true := rfl
@[simp] theorem finishCommand_err (len : Nat) : (finishCommand len s).err = .ok := rfl
@[simp] theorem finishCommand_cause (len : Nat) : (finishCommand len s).cause = .none := rfl
@[simp] theorem finishCommand_cipher (len : Nat) : (finishCommand len s).cipher = s.cipher := rfl
@[simp] theorem finishCommand_buf (len : Nat) : (finishCommand len s).buf = s.buf := rfl
@[simp] theorem finishCommand_inflight (len : Nat) : (finishCommand len s).inflight = none := rfl
@[simp] theorem finishCommand_busFault (len : Nat) : (finishCommand len s).busFault = s.busFault := rfl
@[simp] theorem finishCommand_params (len : Nat) : (finishCommand len s).params = s.params := rfl
@[simp] theorem finishCommand_bufEpoch (len : Nat) : (finishCommand len s).bufEpoch = s.bufEpoch := rfl
@[simp] theorem finishCommand_draws (len : Nat) : (finishCommand len s).draws = s.draws := rfl
@[simp] theorem finishCommand_pollBudget (len : Nat) : (finishCommand len s).pollBudget = s.pollBudget := rfl
@[simp] theorem finishCommand_entropyIn (len : Nat) : (finishCommand len s).entropyIn = s.entropyIn := rfl
@[simp] theorem finishCommand_inputs (len : Nat) : (finishCommand len s).inputs = s.inputs := rfl
@[simp] theorem finishCommand_replies (len : Nat) : (finishCommand len s).replies = s.replies := rfl

@[simp] theorem havoc_srcAddr (input : Bytes) (a n : Nat) : (havoc input a n s).srcAddr = s.srcAddr := rfl
@[simp] theorem havoc_srcLen (input : Bytes) (a n : Nat) : (havoc input a n s).srcLen = s.srcLen := rfl
@[simp] theorem havoc_dstAddr (input : Bytes) (a n : Nat) : (havoc input a n s).dstAddr = s.dstAddr := rfl
@[simp] theorem havoc_resultLen (input : Bytes) (a n : Nat) : (havoc input a n s).resultLen = s.resultLen := rfl
@[simp] theorem havoc_gridW (input : Bytes) (a n : Nat) : (havoc input a n s).gridW = s.gridW := rfl
@[simp] theorem havoc_gridH (input : Bytes) (a n : Nat) : (havoc input a n s).gridH = s.gridH := rfl
@[simp] theorem havoc_done (input : Bytes) (a n : Nat) : (havoc input a n s).done = s.done := rfl
@[simp] theorem havoc_err (input : Bytes) (a n : Nat) : (havoc input a n s).err = s.err := rfl
@[simp] theorem havoc_cause (input : Bytes) (a n : Nat) : (havoc input a n s).cause = s.cause := rfl
@[simp] theorem havoc_cipher (input : Bytes) (a n : Nat) : (havoc input a n s).cipher = s.cipher := rfl
@[simp] theorem havoc_buf (input : Bytes) (a n : Nat) : (havoc input a n s).buf = Memory.store s.buf a (havocBytes s.draws input (memRead s a n) n) := rfl
@[simp] theorem havoc_inflight (input : Bytes) (a n : Nat) : (havoc input a n s).inflight = s.inflight := rfl
@[simp] theorem havoc_busFault (input : Bytes) (a n : Nat) : (havoc input a n s).busFault = s.busFault := rfl
@[simp] theorem havoc_params (input : Bytes) (a n : Nat) : (havoc input a n s).params = s.params := rfl
@[simp] theorem havoc_bufEpoch (input : Bytes) (a n : Nat) : (havoc input a n s).bufEpoch = s.bufEpoch := rfl
@[simp] theorem havoc_draws (input : Bytes) (a n : Nat) : (havoc input a n s).draws = s.draws + 1 := rfl
@[simp] theorem havoc_pollBudget (input : Bytes) (a n : Nat) : (havoc input a n s).pollBudget = s.pollBudget := rfl
@[simp] theorem havoc_entropyIn (input : Bytes) (a n : Nat) : (havoc input a n s).entropyIn = s.entropyIn := rfl
@[simp] theorem havoc_inputs (input : Bytes) (a n : Nat) : (havoc input a n s).inputs = s.inputs := rfl
@[simp] theorem havoc_replies (input : Bytes) (a n : Nat) : (havoc input a n s).replies = s.replies := rfl

@[simp] theorem constructCipher_srcAddr (o : Origin) (k : Vector Byte 32) (n : Vector Byte 12) : (constructCipher o k n s).srcAddr = s.srcAddr := rfl
@[simp] theorem constructCipher_srcLen (o : Origin) (k : Vector Byte 32) (n : Vector Byte 12) : (constructCipher o k n s).srcLen = s.srcLen := rfl
@[simp] theorem constructCipher_dstAddr (o : Origin) (k : Vector Byte 32) (n : Vector Byte 12) : (constructCipher o k n s).dstAddr = s.dstAddr := rfl
@[simp] theorem constructCipher_resultLen (o : Origin) (k : Vector Byte 32) (n : Vector Byte 12) : (constructCipher o k n s).resultLen = s.resultLen := rfl
@[simp] theorem constructCipher_gridW (o : Origin) (k : Vector Byte 32) (n : Vector Byte 12) : (constructCipher o k n s).gridW = s.gridW := rfl
@[simp] theorem constructCipher_gridH (o : Origin) (k : Vector Byte 32) (n : Vector Byte 12) : (constructCipher o k n s).gridH = s.gridH := rfl
@[simp] theorem constructCipher_done (o : Origin) (k : Vector Byte 32) (n : Vector Byte 12) : (constructCipher o k n s).done = s.done := rfl
@[simp] theorem constructCipher_err (o : Origin) (k : Vector Byte 32) (n : Vector Byte 12) : (constructCipher o k n s).err = s.err := rfl
@[simp] theorem constructCipher_cause (o : Origin) (k : Vector Byte 32) (n : Vector Byte 12) : (constructCipher o k n s).cause = s.cause := rfl
@[simp] theorem constructCipher_cipher (o : Origin) (k : Vector Byte 32) (n : Vector Byte 12) : (constructCipher o k n s).cipher = { valid := true, origin := o, encCount := 0, key := k, nonce := n } := rfl
@[simp] theorem constructCipher_buf (o : Origin) (k : Vector Byte 32) (n : Vector Byte 12) : (constructCipher o k n s).buf = s.buf := rfl
@[simp] theorem constructCipher_inflight (o : Origin) (k : Vector Byte 32) (n : Vector Byte 12) : (constructCipher o k n s).inflight = s.inflight := rfl
@[simp] theorem constructCipher_busFault (o : Origin) (k : Vector Byte 32) (n : Vector Byte 12) : (constructCipher o k n s).busFault = s.busFault := rfl
@[simp] theorem constructCipher_params (o : Origin) (k : Vector Byte 32) (n : Vector Byte 12) : (constructCipher o k n s).params = s.params := rfl
@[simp] theorem constructCipher_bufEpoch (o : Origin) (k : Vector Byte 32) (n : Vector Byte 12) : (constructCipher o k n s).bufEpoch = s.bufEpoch := rfl
@[simp] theorem constructCipher_draws (o : Origin) (k : Vector Byte 32) (n : Vector Byte 12) : (constructCipher o k n s).draws = s.draws := rfl
@[simp] theorem constructCipher_pollBudget (o : Origin) (k : Vector Byte 32) (n : Vector Byte 12) : (constructCipher o k n s).pollBudget = s.pollBudget := rfl
@[simp] theorem constructCipher_entropyIn (o : Origin) (k : Vector Byte 32) (n : Vector Byte 12) : (constructCipher o k n s).entropyIn = s.entropyIn := rfl
@[simp] theorem constructCipher_inputs (o : Origin) (k : Vector Byte 32) (n : Vector Byte 12) : (constructCipher o k n s).inputs = s.inputs := rfl
@[simp] theorem constructCipher_replies (o : Origin) (k : Vector Byte 32) (n : Vector Byte 12) : (constructCipher o k n s).replies = s.replies := rfl

@[simp] theorem countEncrypt_srcAddr : (countEncrypt s).srcAddr = s.srcAddr := rfl
@[simp] theorem countEncrypt_srcLen : (countEncrypt s).srcLen = s.srcLen := rfl
@[simp] theorem countEncrypt_dstAddr : (countEncrypt s).dstAddr = s.dstAddr := rfl
@[simp] theorem countEncrypt_resultLen : (countEncrypt s).resultLen = s.resultLen := rfl
@[simp] theorem countEncrypt_gridW : (countEncrypt s).gridW = s.gridW := rfl
@[simp] theorem countEncrypt_gridH : (countEncrypt s).gridH = s.gridH := rfl
@[simp] theorem countEncrypt_done : (countEncrypt s).done = s.done := rfl
@[simp] theorem countEncrypt_err : (countEncrypt s).err = s.err := rfl
@[simp] theorem countEncrypt_cause : (countEncrypt s).cause = s.cause := rfl
@[simp] theorem countEncrypt_cipher : (countEncrypt s).cipher = { s.cipher with encCount := saturatingSucc s.cipher.encCount } := rfl
@[simp] theorem countEncrypt_buf : (countEncrypt s).buf = s.buf := rfl
@[simp] theorem countEncrypt_inflight : (countEncrypt s).inflight = s.inflight := rfl
@[simp] theorem countEncrypt_busFault : (countEncrypt s).busFault = s.busFault := rfl
@[simp] theorem countEncrypt_params : (countEncrypt s).params = s.params := rfl
@[simp] theorem countEncrypt_bufEpoch : (countEncrypt s).bufEpoch = s.bufEpoch := rfl
@[simp] theorem countEncrypt_draws : (countEncrypt s).draws = s.draws := rfl
@[simp] theorem countEncrypt_pollBudget : (countEncrypt s).pollBudget = s.pollBudget := rfl
@[simp] theorem countEncrypt_entropyIn : (countEncrypt s).entropyIn = s.entropyIn := rfl
@[simp] theorem countEncrypt_inputs : (countEncrypt s).inputs = s.inputs := rfl
@[simp] theorem countEncrypt_replies : (countEncrypt s).replies = s.replies := rfl

@[simp] theorem answer_srcAddr (r : Reply) : (answer r s).srcAddr = s.srcAddr := rfl
@[simp] theorem answer_srcLen (r : Reply) : (answer r s).srcLen = s.srcLen := rfl
@[simp] theorem answer_dstAddr (r : Reply) : (answer r s).dstAddr = s.dstAddr := rfl
@[simp] theorem answer_resultLen (r : Reply) : (answer r s).resultLen = s.resultLen := rfl
@[simp] theorem answer_gridW (r : Reply) : (answer r s).gridW = s.gridW := rfl
@[simp] theorem answer_gridH (r : Reply) : (answer r s).gridH = s.gridH := rfl
@[simp] theorem answer_done (r : Reply) : (answer r s).done = s.done := rfl
@[simp] theorem answer_err (r : Reply) : (answer r s).err = s.err := rfl
@[simp] theorem answer_cause (r : Reply) : (answer r s).cause = s.cause := rfl
@[simp] theorem answer_cipher (r : Reply) : (answer r s).cipher = s.cipher := rfl
@[simp] theorem answer_buf (r : Reply) : (answer r s).buf = s.buf := rfl
@[simp] theorem answer_inflight (r : Reply) : (answer r s).inflight = s.inflight := rfl
@[simp] theorem answer_busFault (r : Reply) : (answer r s).busFault = s.busFault := rfl
@[simp] theorem answer_params (r : Reply) : (answer r s).params = s.params := rfl
@[simp] theorem answer_bufEpoch (r : Reply) : (answer r s).bufEpoch = s.bufEpoch := rfl
@[simp] theorem answer_draws (r : Reply) : (answer r s).draws = s.draws := rfl
@[simp] theorem answer_pollBudget (r : Reply) : (answer r s).pollBudget = s.pollBudget := rfl
@[simp] theorem answer_entropyIn (r : Reply) : (answer r s).entropyIn = s.entropyIn := rfl
@[simp] theorem answer_inputs (r : Reply) : (answer r s).inputs = s.inputs := rfl
@[simp] theorem answer_replies (r : Reply) : (answer r s).replies = r :: s.replies := rfl

@[simp] theorem busError_srcAddr : (busError s).srcAddr = s.srcAddr := rfl
@[simp] theorem busError_srcLen : (busError s).srcLen = s.srcLen := rfl
@[simp] theorem busError_dstAddr : (busError s).dstAddr = s.dstAddr := rfl
@[simp] theorem busError_resultLen : (busError s).resultLen = s.resultLen := rfl
@[simp] theorem busError_gridW : (busError s).gridW = s.gridW := rfl
@[simp] theorem busError_gridH : (busError s).gridH = s.gridH := rfl
@[simp] theorem busError_done : (busError s).done = s.done := rfl
@[simp] theorem busError_err : (busError s).err = s.err := rfl
@[simp] theorem busError_cause : (busError s).cause = s.cause := rfl
@[simp] theorem busError_cipher : (busError s).cipher = s.cipher := rfl
@[simp] theorem busError_buf : (busError s).buf = s.buf := rfl
@[simp] theorem busError_inflight : (busError s).inflight = s.inflight := rfl
@[simp] theorem busError_busFault : (busError s).busFault = true := rfl
@[simp] theorem busError_params : (busError s).params = s.params := rfl
@[simp] theorem busError_bufEpoch : (busError s).bufEpoch = s.bufEpoch := rfl
@[simp] theorem busError_draws : (busError s).draws = s.draws := rfl
@[simp] theorem busError_pollBudget : (busError s).pollBudget = s.pollBudget := rfl
@[simp] theorem busError_entropyIn : (busError s).entropyIn = s.entropyIn := rfl
@[simp] theorem busError_inputs : (busError s).inputs = s.inputs := rfl
@[simp] theorem busError_replies : (busError s).replies = .busError :: s.replies := rfl

@[simp] theorem startCommand_srcAddr (w : Word) : (startCommand w s).srcAddr = s.srcAddr := rfl
@[simp] theorem startCommand_srcLen (w : Word) : (startCommand w s).srcLen = s.srcLen := rfl
@[simp] theorem startCommand_dstAddr (w : Word) : (startCommand w s).dstAddr = s.dstAddr := rfl
@[simp] theorem startCommand_resultLen (w : Word) : (startCommand w s).resultLen = s.resultLen := rfl
@[simp] theorem startCommand_gridW (w : Word) : (startCommand w s).gridW = s.gridW := rfl
@[simp] theorem startCommand_gridH (w : Word) : (startCommand w s).gridH = s.gridH := rfl
@[simp] theorem startCommand_done (w : Word) : (startCommand w s).done = false := rfl
@[simp] theorem startCommand_err (w : Word) : (startCommand w s).err = s.err := rfl
@[simp] theorem startCommand_cause (w : Word) : (startCommand w s).cause = s.cause := rfl
@[simp] theorem startCommand_cipher (w : Word) : (startCommand w s).cipher = s.cipher := rfl
@[simp] theorem startCommand_buf (w : Word) : (startCommand w s).buf = s.buf := rfl
@[simp] theorem startCommand_inflight (w : Word) : (startCommand w s).inflight = some w := rfl
@[simp] theorem startCommand_busFault (w : Word) : (startCommand w s).busFault = s.busFault := rfl
@[simp] theorem startCommand_params (w : Word) : (startCommand w s).params = s.params := rfl
@[simp] theorem startCommand_bufEpoch (w : Word) : (startCommand w s).bufEpoch = s.bufEpoch := rfl
@[simp] theorem startCommand_draws (w : Word) : (startCommand w s).draws = s.draws + 1 := rfl
@[simp] theorem startCommand_pollBudget (w : Word) : (startCommand w s).pollBudget = Config.pollBudget s.draws := rfl
@[simp] theorem startCommand_entropyIn (w : Word) : (startCommand w s).entropyIn = s.entropyIn := rfl
@[simp] theorem startCommand_inputs (w : Word) : (startCommand w s).inputs = s.inputs := rfl
@[simp] theorem startCommand_replies (w : Word) : (startCommand w s).replies = s.replies := rfl

@[simp] theorem resetBlock_srcAddr : (resetBlock s).srcAddr = State.reset.srcAddr := rfl
@[simp] theorem resetBlock_srcLen : (resetBlock s).srcLen = State.reset.srcLen := rfl
@[simp] theorem resetBlock_dstAddr : (resetBlock s).dstAddr = State.reset.dstAddr := rfl
@[simp] theorem resetBlock_resultLen : (resetBlock s).resultLen = State.reset.resultLen := rfl
@[simp] theorem resetBlock_gridW : (resetBlock s).gridW = State.reset.gridW := rfl
@[simp] theorem resetBlock_gridH : (resetBlock s).gridH = State.reset.gridH := rfl
@[simp] theorem resetBlock_done : (resetBlock s).done = State.reset.done := rfl
@[simp] theorem resetBlock_err : (resetBlock s).err = State.reset.err := rfl
@[simp] theorem resetBlock_cause : (resetBlock s).cause = State.reset.cause := rfl
@[simp] theorem resetBlock_cipher : (resetBlock s).cipher = State.reset.cipher := rfl
@[simp] theorem resetBlock_buf : (resetBlock s).buf = State.reset.buf := rfl
@[simp] theorem resetBlock_inflight : (resetBlock s).inflight = State.reset.inflight := rfl
@[simp] theorem resetBlock_busFault : (resetBlock s).busFault = State.reset.busFault := rfl
@[simp] theorem resetBlock_params : (resetBlock s).params = s.params := rfl
@[simp] theorem resetBlock_bufEpoch : (resetBlock s).bufEpoch = s.draws := rfl
@[simp] theorem resetBlock_draws : (resetBlock s).draws = s.draws + 1 := rfl
@[simp] theorem resetBlock_pollBudget : (resetBlock s).pollBudget = State.reset.pollBudget := rfl
@[simp] theorem resetBlock_entropyIn : (resetBlock s).entropyIn = s.entropyIn := rfl
@[simp] theorem resetBlock_inputs : (resetBlock s).inputs = s.inputs := rfl
@[simp] theorem resetBlock_replies : (resetBlock s).replies = s.replies := rfl

end

end Sys2Proof.Machine
end

