-- ==== Sys2Proof/Laws/Memory.lean ====
section
/-! SUPPORT. The laws of buffer memory: what a store leaves readable where, and that every operation keeps the
canonical form. -/

namespace Sys2Proof.Machine

theorem Memory.lookup_append (m m' : Memory) (a : Nat) :
    Memory.lookup (m ++ m') a = (Memory.lookup m a).or (Memory.lookup m' a) := by
  induction m with
  | nil => rfl
  | cons c m ih =>
    by_cases h : c.1 = a
    · simp [Memory.lookup, h]
    · simp [Memory.lookup, h, ih]

/-- Leaving out cells at other addresses does not change what address `a` reads as. -/
theorem Memory.lookup_filter (m : Memory) (p : Host.Cell → Bool) (a : Nat) :
    (∀ b, p (a, b) = true) → Memory.lookup (m.filter p) a = Memory.lookup m a := by
  intro hp
  induction m with
  | nil => rfl
  | cons c m ih =>
    obtain ⟨x, b⟩ := c
    by_cases h : x = a
    · subst h; simp [Memory.lookup, hp]
    · by_cases hq : p (x, b) = true
      · simp [Memory.lookup, hq, h, ih]
      · simp [Memory.lookup, hq, h, ih]

/-- An address none of whose cells are kept is not listed. -/
theorem Memory.lookup_filter_none (m : Memory) (p : Host.Cell → Bool) (a : Nat) :
    (∀ b, p (a, b) = false) → Memory.lookup (m.filter p) a = none := by
  intro hp
  induction m with
  | nil => rfl
  | cons c m ih =>
    obtain ⟨x, b⟩ := c
    by_cases hq : p (x, b) = true
    · have h : x ≠ a := by
        rintro rfl
        simp [hp] at hq
      simp [Memory.lookup, hq, h, ih]
    · simp [hq, ih]

theorem Memory.lookup_cells (bs : Bytes) (a x : Nat) :
    Memory.lookup (Memory.cells a bs) x = if a ≤ x then bs[x - a]? else none := by
  induction bs generalizing a with
  | nil => simp [Memory.cells, Memory.lookup]
  | cons b bs ih =>
    rcases Nat.lt_trichotomy x a with h | rfl | h
    · have h1 : ¬a ≤ x := by omega
      have h2 : ¬a + 1 ≤ x := by omega
      have h3 : ¬a = x := by omega
      simp [Memory.cells, Memory.lookup, ih, h1, h2, h3]
    · simp [Memory.cells, Memory.lookup]
    · have h1 : a ≤ x := by omega
      have h2 : a + 1 ≤ x := by omega
      have h3 : ¬a = x := by omega
      have h4 : x - a = (x - (a + 1)) + 1 := by omega
      simp [Memory.cells, Memory.lookup, ih, h1, h2, h3, h4]

/-- What a store leaves at every address. -/
theorem Memory.lookup_store (m : Memory) (a : Nat) (bs : Bytes) (x : Nat) :
    Memory.lookup (Memory.store m a bs) x
      = if a ≤ x ∧ x < a + bs.length then bs[x - a]? else Memory.lookup m x := by
  cases bs with
  | nil =>
    have : ¬(a ≤ x ∧ x < a) := by omega
    simp [Memory.store, this]
  | cons b bs =>
    simp only [Memory.store, Memory.lookup_append, Memory.lookup_cells, List.length_cons]
    by_cases h1 : x < a
    · have h2 : ¬a ≤ x := by omega
      rw [Memory.lookup_filter m _ x (by simp [h1]), Memory.lookup_filter_none m _ x (by intro; simp; omega)]
      simp [h2]
    · rw [Memory.lookup_filter_none m _ x (by simp [h1])]
      have h2 : a ≤ x := by omega
      by_cases h3 : x < a + (bs.length + 1)
      · have h4 : x - a < (b :: bs).length := by simp only [List.length_cons]; omega
        simp only [Option.none_or, h2, if_true, true_and, h3]
        rw [List.getElem?_eq_getElem h4]
        rfl
      · have h4 : (b :: bs)[x - a]? = none := by
          rw [List.getElem?_eq_none_iff]
          simp only [List.length_cons]; omega
        rw [Memory.lookup_filter m _ x (by intro; simp; omega)]
        simp [h2, h3, h4]

theorem Memory.cells_wf (bs : Bytes) (a : Nat) : Memory.wf (Memory.cells a bs) := by
  induction bs generalizing a with
  | nil => exact List.Pairwise.nil
  | cons b bs ih =>
    refine List.Pairwise.cons ?_ (ih (a + 1))
    have low : ∀ (bs : Bytes) (k : Nat), ∀ c ∈ Memory.cells k bs, k ≤ c.1 := by
      intro bs
      induction bs with
      | nil => simp [Memory.cells]
      | cons b bs ih =>
        intro k c hc
        rcases List.mem_cons.1 hc with rfl | hc
        · exact Nat.le_refl _
        · exact Nat.le_of_succ_le (ih (k + 1) c hc)
    intro c hc
    exact low bs (a + 1) c hc

theorem Memory.mem_cells (bs : Bytes) (a : Nat) (c : Host.Cell) (h : c ∈ Memory.cells a bs) :
    a ≤ c.1 ∧ c.1 < a + bs.length := by
  induction bs generalizing a with
  | nil => simp [Memory.cells] at h
  | cons b bs ih =>
    rcases List.mem_cons.1 h with rfl | h
    · simp
    · have := ih (a + 1) h
      simp only [List.length_cons]
      omega

/-- A store keeps the canonical form. -/
theorem Memory.store_wf (m : Memory) (a : Nat) (bs : Bytes) (h : Memory.wf m) : Memory.wf (Memory.store m a bs) := by
  cases bs with
  | nil => exact h
  | cons b bs =>
    refine List.pairwise_append.2 ⟨List.pairwise_append.2 ⟨h.filter _, Memory.cells_wf _ _, ?_⟩, h.filter _, ?_⟩
    · intro c hc d hd
      have h1 := Memory.mem_cells _ _ d hd
      simp only [List.mem_filter, decide_eq_true_eq] at hc
      omega
    · intro c hc d hd
      simp only [List.mem_filter, decide_eq_true_eq] at hd
      rcases List.mem_append.1 hc with hc | hc
      · simp only [List.mem_filter, decide_eq_true_eq] at hc
        omega
      · have h1 := Memory.mem_cells _ _ c hc
        simp only [List.length_cons] at h1
        omega

/-- A store of a range inside the buffer lists no address outside it. -/
theorem Memory.store_within (m : Memory) (a : Nat) (bs : Bytes) (size : Nat) (h : Memory.within m size)
    (hr : a + bs.length ≤ size) : Memory.within (Memory.store m a bs) size := by
  intro c hc
  cases bs with
  | nil => exact h c hc
  | cons b bs =>
    rcases List.mem_append.1 hc with hc | hc
    · rcases List.mem_append.1 hc with hc | hc
      · exact h c (List.mem_of_mem_filter hc)
      · have h1 := Memory.mem_cells _ _ c hc
        omega
    · exact h c (List.mem_of_mem_filter hc)

theorem Memory.lookup_none_of_lt (m : Memory) (a : Nat) (h : ∀ c ∈ m, a < c.1) : Memory.lookup m a = none := by
  induction m with
  | nil => rfl
  | cons c m ih =>
    have h1 := h c (by simp)
    have h2 : ¬c.1 = a := by omega
    simp [Memory.lookup, h2, ih fun d hd => h d (by simp [hd])]

/-- The canonical form is canonical: memories in it that read alike are equal. -/
theorem Memory.eq_of_lookup_eq (m m' : Memory) (h : Memory.wf m) (h' : Memory.wf m')
    (hl : ∀ a, Memory.lookup m a = Memory.lookup m' a) : m = m' := by
  induction m generalizing m' with
  | nil =>
    cases m' with
    | nil => rfl
    | cons d m' => simpa [Memory.lookup] using hl d.1
  | cons c m ih =>
    cases m' with
    | nil => simpa [Memory.lookup] using hl c.1
    | cons d m' =>
      obtain ⟨hc, hm⟩ := List.pairwise_cons.1 h
      obtain ⟨hd, hm'⟩ := List.pairwise_cons.1 h'
      have heq : c.1 = d.1 := by
        rcases Nat.lt_trichotomy c.1 d.1 with hlt | heq | hlt
        · have h1 := hl c.1
          rw [Memory.lookup_none_of_lt (d :: m') c.1 (by
            intro e he
            rcases List.mem_cons.1 he with rfl | he
            · exact hlt
            · exact Nat.lt_trans hlt (hd e he))] at h1
          simp [Memory.lookup] at h1
        · exact heq
        · have h1 := hl d.1
          rw [Memory.lookup_none_of_lt (c :: m) d.1 (by
            intro e he
            rcases List.mem_cons.1 he with rfl | he
            · exact hlt
            · exact Nat.lt_trans hlt (hc e he))] at h1
          simp [Memory.lookup] at h1
      have hval : c = d := by
        have h1 := hl c.1
        simp only [Memory.lookup, heq, if_true, Option.some.injEq] at h1
        exact Prod.ext heq h1
      subst hval
      congr 1
      refine ih m' hm hm' fun a => ?_
      by_cases ha : c.1 = a
      · subst ha
        rw [Memory.lookup_none_of_lt m c.1 hc, Memory.lookup_none_of_lt m' c.1 hd]
      · have h1 := hl a
        simpa [Memory.lookup, ha] using h1

/-! ### Reading the buffer of a state -/

/-- What a byte reads as depends on the buffer and the reset that filled it alone. -/
theorem readByte_congr {s t : State} (hb : t.buf = s.buf) (he : t.bufEpoch = s.bufEpoch) (a : Nat) :
    t.readByte a = s.readByte a := by
  simp [State.readByte, hb, he]

theorem memRead_congr {s t : State} (hb : t.buf = s.buf) (he : t.bufEpoch = s.bufEpoch) (a n : Nat) :
    memRead t a n = memRead s a n := by
  simp [memRead, readByte_congr hb he]

@[simp] theorem memRead_length (s : State) (a n : Nat) : (memRead s a n).length = n := by simp [memRead]

theorem memRead_getElem? (s : State) (a n i : Nat) (h : i < n) : (memRead s a n)[i]? = some (s.readByte (a + i)) := by
  simp [memRead, h]

/-- A byte outside a written range reads as before. -/
theorem readByte_memWrite_outside (s : State) (a : Nat) (bs : Bytes) (x : Nat) (h : x < a ∨ a + bs.length ≤ x) :
    (memWrite a bs s).readByte x = s.readByte x := by
  have h1 : ¬(a ≤ x ∧ x < a + bs.length) := by omega
  simp [State.readByte, Memory.lookup_store, h1]

/-- A byte inside a written range reads as written. -/
theorem readByte_memWrite_inside (s : State) (a : Nat) (bs : Bytes) (i : Nat) (h : i < bs.length) :
    (memWrite a bs s).readByte (a + i) = bs[i] := by
  have h1 : a ≤ a + i ∧ a + i < a + bs.length := by omega
  simp [State.readByte, Memory.lookup_store, h1, h]

/-- A written range reads back as written. -/
theorem memRead_memWrite (s : State) (a : Nat) (bs : Bytes) : memRead (memWrite a bs s) a bs.length = bs := by
  refine List.ext_getElem (by simp) fun i h1 h2 => ?_
  simp [memRead, readByte_memWrite_inside s a bs i h2]

/-- A range apart from a written range reads as before. -/
theorem memRead_memWrite_apart (s : State) (a : Nat) (bs : Bytes) (b n : Nat)
    (h : b + n ≤ a ∨ a + bs.length ≤ b) : memRead (memWrite a bs s) b n = memRead s b n := by
  refine List.map_congr_left fun i hi => ?_
  have := List.mem_range.1 hi
  exact readByte_memWrite_outside s a bs (b + i) (by omega)

@[simp] theorem havocBytes_length (draw : Nat) (input old : Bytes) (n : Nat) :
    (havocBytes draw input old n).length = n := by simp [havocBytes]

/-- A havoc changes no byte outside its range (R234). -/
theorem readByte_havoc_outside (input : Bytes) (a n : Nat) (s : State) (x : Nat) (h : x < a ∨ a + n ≤ x) :
    (havoc input a n s).readByte x = s.readByte x := by
  refine (readByte_memWrite_outside _ a _ x (by simpa using h)).trans ?_
  exact readByte_congr rfl rfl x

theorem memRead_take (s : State) (a n m : Nat) (h : m ≤ n) : (memRead s a n).take m = memRead s a m := by
  simp [memRead, ← List.map_take, List.take_range, h]

theorem memRead_drop (s : State) (a n m : Nat) : (memRead s a n).drop m = memRead s (a + m) (n - m) := by
  refine List.ext_getElem (by simp) fun i h1 h2 => ?_
  simp only [memRead, List.getElem_drop, List.getElem_map, List.getElem_range]
  congr 1
  omega

theorem memRead_getD (s : State) (a n m : Nat) (h : m < n) : (memRead s a n).getD m 0 = s.readByte (a + m) := by
  simp [memRead, h]

theorem mem_memRead (s : State) (a n : Nat) (x : Byte) : x ∈ memRead s a n ↔ ∃ j < n, s.readByte (a + j) = x := by
  simp [memRead]

end Sys2Proof.Machine
end

