-- ==== Sys2Proof/Laws/Ops.lean ====
section
/-! SUPPORT. For each shared operation, once, everything it can do: the checks of R230, the draws, the AEAD functions,
the lengths of what the pure functions return, and how a command's body ends. -/

namespace Sys2Proof.Machine

/-- A command ends with the first error its registers show, or runs its body (R230). -/
theorem guarded_cases (i : Instr) (body : State → State) (s : State) :
    (∃ e c, registerError i s = some (e, c) ∧ guarded i body s = raiseError e c s)
      ∨ (registerError i s = none ∧ guarded i body s = body s) := by
  unfold guarded
  cases h : registerError i s with
  | none => exact .inr ⟨rfl, rfl⟩
  | some ec => exact .inl ⟨ec.1, ec.2, rfl, rfl⟩

theorem guarded_of_none {i : Instr} {body : State → State} {s : State} (h : registerError i s = none) :
    guarded i body s = body s := by simp [guarded, h]

theorem guarded_of_some {i : Instr} {body : State → State} {s : State} {e : ErrCode} {c : Cause}
    (h : registerError i s = some (e, c)) : guarded i body s = raiseError e c s := by simp [guarded, h]

/-- `raise` on an unchanged state is `afterError` (R236). -/
theorem raiseError_eq (e : ErrCode) (c : Cause) (s : State) : raiseError e c s = s.afterError e c := rfl

theorem checkSource_eq_none {size a len : Nat} : checkSource size a len = none ↔ a + len ≤ size := by
  simp [checkSource]

theorem checkDest_eq_none {size d m : Nat} : checkDest size d m = none ↔ d + m ≤ size := by
  simp [checkDest]

theorem checkOverlap_eq_none {a len d m : Nat} :
    checkOverlap a len d m = none ↔ (len = 0 ∨ m = 0 ∨ d + m ≤ a ∨ a + len ≤ d) := by
  simp only [checkOverlap, ite_eq_right_iff, reduceCtorEq, imp_false, not_and_or, not_lt]
  omega

/-- R231 to R233: the bounds of a command with a source and a destination pass exactly when the ranges are in order. -/
theorem boundsCause_eq_none {i : Instr} {s : State} {l m : Nat} (hl : sourceLength i s = some l)
    (hm : outMax i s = some m) : boundsCause i s = none ↔ s.rangesOk l m := by
  simp [boundsCause, hl, hm, Option.or_eq_none_iff, checkSource_eq_none, checkDest_eq_none, checkOverlap_eq_none,
    State.rangesOk]

/-- The four checks of R230 steps 1 to 6. -/
theorem registerError_eq_none {i : Instr} {s : State} :
    registerError i s = none ↔
      i.wellFormed = true ∧ cipherError i s = none ∧ shapeError i s = none ∧ boundsCause i s = none := by
  cases h : i.wellFormed <;>
    simp [registerError, operandError, boundsError, Option.or_eq_none_iff, h]

/-- A draw takes the next settled answer, or a free one; it changes nothing but the two fields that count draws. -/
theorem drawEntropy_cases (n : Nat) (s : State) :
    (∃ answer rest, s.entropyIn = answer :: rest
        ∧ drawEntropy n s = (entropyAnswer n answer, { s with entropyIn := rest }))
      ∨ (s.entropyIn = [] ∧ drawEntropy n s = (Config.entropy s.draws n, { s with draws := s.draws + 1 })) := by
  unfold drawEntropy
  cases h : s.entropyIn with
  | nil => exact .inr ⟨rfl, rfl⟩
  | cons answer rest => exact .inl ⟨answer, rest, rfl, rfl⟩

/-- Whatever a draw answers, every field but `draws` and `entropyIn` is as before. -/
theorem drawEntropy_frame (n : Nat) (s : State) :
    ∃ d e, (drawEntropy n s).2 = { s with draws := d, entropyIn := e } := by
  rcases drawEntropy_cases n s with ⟨answer, rest, _, h⟩ | ⟨_, h⟩
  · exact ⟨s.draws, rest, by rw [h]⟩
  · exact ⟨s.draws + 1, s.entropyIn, by rw [h]⟩

theorem entropyAnswer_some {n : Nat} {bs : Bytes} (h : bs.length = n) :
    ∃ v : Vector Byte n, entropyAnswer n (some bs) = some v ∧ v.toList = bs :=
  ⟨Vector.mk bs.toArray (by simp [h]), by simp [entropyAnswer, h], by simp [Vector.toList]⟩

@[simp] theorem memReadVector_toList (s : State) (a n : Nat) : (memReadVector s a n).toList = memRead s a n := by
  simp [memReadVector, Vector.toList]

@[simp] theorem keyArtifact_length (c : CipherSlot) : (keyArtifact c).length = 44 := by simp [keyArtifact]

/-- What a restricted `open` answers has the length of R161. -/
theorem lawfulOpen_some {f : Nat → Vector Byte 32 → Vector Byte 12 → Bytes → Option Bytes} {tagLen : Nat}
    {key : Vector Byte 32} {nonce : Vector Byte 12} {ct pt : Bytes}
    (h : lawfulOpen f tagLen key nonce ct = some pt) :
    f tagLen key nonce ct = some pt ∧ ct.length = pt.length + tagLen := by
  unfold lawfulOpen at h
  split at h
  · cases h
  · rename_i p hp
    split at h
    · rename_i hl
      cases h
      exact ⟨hp, hl⟩
    · cases h

/-- What a restricted `seal` answers has the length of R160 and opens to what was sealed. -/
theorem lawfulSeal_some {f g : Nat → Vector Byte 32 → Vector Byte 12 → Bytes → Option Bytes} {tagLen : Nat}
    {key : Vector Byte 32} {nonce : Vector Byte 12} {ct pt : Bytes}
    (h : lawfulSeal f g tagLen key nonce pt = some ct) :
    f tagLen key nonce pt = some ct ∧ ct.length = pt.length + tagLen ∧ g tagLen key nonce ct = some pt := by
  unfold lawfulSeal at h
  split at h
  · cases h
  · rename_i c hc
    split at h
    · rename_i hl
      cases h
      exact ⟨hc, hl⟩
    · cases h

/-- A padded block has the block size (R121). -/
theorem padBytes_length {n : Nat} {d : Bytes} (h : d.length ≤ n) : (padBytes n d).length = n := by
  unfold padBytes
  split
  · assumption
  · simp only [List.length_append, List.length_replicate, List.length_singleton]
    omega

/-- What `unpad_n` answers: a proper initial part of the block, of the length the count says, or one of three
causes (R122). -/
theorem unpadBytes_cases (fc : Bool) (n : Nat) (b : Bytes) :
    (unpadBytes fc n b = .error .zeroCount ∧ padCount n b = 0)
      ∨ (unpadBytes fc n b = .error .countTooLarge ∧ n < padCount n b)
      ∨ (unpadBytes fc n b = .error .filler ∧ 0 < padCount n b ∧ padCount n b ≤ n ∧ fc = true)
      ∨ (unpadBytes fc n b = .ok (b.take (n - padCount n b)) ∧ 0 < padCount n b ∧ padCount n b ≤ n
          ∧ (fc = true → ∀ x ∈ fillerBytes n (padCount n b) b, x = 0)) := by
  unfold unpadBytes
  split
  · exact .inl ⟨rfl, by assumption⟩
  · split
    · exact .inr (.inl ⟨rfl, by assumption⟩)
    · split
      · rename_i h1 h2 h3
        simp only [Bool.and_eq_true] at h3
        exact .inr (.inr (.inl ⟨rfl, by omega, by omega, h3.1⟩))
      · rename_i h1 h2 h3
        refine .inr (.inr (.inr ⟨rfl, by omega, by omega, fun hfc x hx => ?_⟩))
        simp only [hfc, Bool.true_and, List.any_eq_true, not_exists, not_and] at h3
        simpa using h3 x hx

/-- A pad count is a byte. -/
theorem padCount_lt (n : Nat) (b : Bytes) : padCount n b < 256 := (b.getD (n - 1) 0).isLt

/-- An encoding has `255 * rows` bytes (R142). -/
theorem encodeBytes_length (x : Bytes) : (encodeBytes x).length = 255 * rowCount x.length := by
  have h : 255 * (rowCount x.length - 1) ≤ x.length := by simp only [rowCount, Config.blockSize]; omega
  have hd : (x.drop (255 * (rowCount x.length - 1))).length ≤ 255 := by
    simp only [List.length_drop, rowCount, Config.blockSize]; omega
  simp only [encodeBytes, List.length_append, List.length_take, padBytes_length hd]
  simp only [rowCount, Config.blockSize] at *
  omega

/-- Whatever the host does, the parameters stay (log 1), and so does everything that only a command, a register write
or a reset can change. -/
theorem writeRegister_frame (o : Nat) (v : Word) (s : State) :
    (writeRegister o v s).params = s.params ∧ (writeRegister o v s).cipher = s.cipher
      ∧ (writeRegister o v s).buf = s.buf ∧ (writeRegister o v s).err = s.err
      ∧ (writeRegister o v s).cause = s.cause ∧ (writeRegister o v s).resultLen = s.resultLen
      ∧ (writeRegister o v s).busFault = s.busFault ∧ (writeRegister o v s).inputs = s.inputs
      ∧ (writeRegister o v s).replies = s.replies ∧ (writeRegister o v s).bufEpoch = s.bufEpoch
      ∧ (writeRegister o v s).entropyIn = s.entropyIn := by
  unfold writeRegister
  split <;> simp

/-- A written range changes nothing outside it. -/
theorem sameBufferOutside_memWrite (s : State) (a : Nat) (bs : Bytes) (n : Nat) (h : bs.length = n) :
    sameBufferOutside s (memWrite a bs s) a n := by
  subst h
  exact fun x hx => readByte_memWrite_outside s a bs x hx

/-- A havocked range changes nothing outside it (R234). -/
theorem sameBufferOutside_havoc (s : State) (input : Bytes) (a n : Nat) :
    sameBufferOutside s (havoc input a n s) a n := fun x hx => readByte_havoc_outside input a n s x hx

/-- The filler bytes of a block in memory (R122). -/
theorem mem_fillerBytes (s : State) (a n k : Nat) (x : Byte) (hk : k ≤ n) :
    x ∈ fillerBytes n k (memRead s a n) ↔ ∃ j, n - k ≤ j ∧ j < n - 1 ∧ s.readByte (a + j) = x := by
  rw [fillerBytes, memRead_take _ _ _ _ (by omega), memRead_drop, mem_memRead]
  constructor
  · rintro ⟨j, h, rfl⟩
    exact ⟨n - k + j, by omega, by omega, by congr 1; omega⟩
  · rintro ⟨j, h, h', rfl⟩
    exact ⟨j - (n - k), by omega, by congr 1; omega⟩

/-- The pad count of a block in memory (R122). -/
theorem padCount_memRead (s : State) (a n : Nat) (hn : 1 ≤ n) :
    padCount n (memRead s a n) = (s.readByte (a + (n - 1))).toNat := by
  rw [padCount, memRead_getD _ _ _ _ (by omega)]

/-- A block in memory with a count in range and, where it is checked, zero filler unpads to its first bytes (R122). -/
theorem unpadBytes_memRead (fc : Bool) (s : State) (a n k : Nat) (hn : 1 ≤ n)
    (hk : k = (s.readByte (a + (n - 1))).toNat) (h1 : 1 ≤ k) (h2 : k ≤ n)
    (hf : fc = true → ∀ j, n - k ≤ j → j < n - 1 → s.readByte (a + j) = 0) :
    unpadBytes fc n (memRead s a n) = .ok (memRead s a (n - k)) := by
  have hp : padCount n (memRead s a n) = k := by rw [padCount_memRead s a n hn, hk]
  unfold unpadBytes
  rw [hp, if_neg (by omega), if_neg (by omega), if_neg, memRead_take _ _ _ _ (by omega)]
  simp only [Bool.and_eq_true, List.any_eq_true, not_and, not_exists]
  intro hfc x hx
  obtain ⟨j, a1, a2, rfl⟩ := (mem_fillerBytes s a n k x h2).1 hx
  simp [hf hfc j a1 a2]

/-- Why a block in memory does not unpad (R122). -/
theorem unpadBytes_memRead_error (fc : Bool) (s : State) (a n k : Nat) (hn : 1 ≤ n)
    (hk : k = (s.readByte (a + (n - 1))).toNat) (c : Cause)
    (hc : (c = .zeroCount ∧ k = 0) ∨ (c = .countTooLarge ∧ n < k)
      ∨ (c = .filler ∧ 1 ≤ k ∧ k ≤ n ∧ fc = true
          ∧ ∃ j, n - k ≤ j ∧ j < n - 1 ∧ s.readByte (a + j) ≠ 0)) :
    unpadBytes fc n (memRead s a n) = .error c := by
  have hp : padCount n (memRead s a n) = k := by rw [padCount_memRead s a n hn, hk]
  unfold unpadBytes
  rw [hp]
  rcases hc with ⟨rfl, h⟩ | ⟨rfl, h⟩ | ⟨rfl, h1, h2, h3, j, h4, h5, h6⟩
  · rw [if_pos h]
  · rw [if_neg (by omega), if_pos h]
  · rw [if_neg (by omega), if_neg (by omega), if_pos]
    simp only [h3, Bool.true_and, List.any_eq_true]
    exact ⟨_, (mem_fillerBytes s a n k _ h2).2 ⟨j, h4, h5, rfl⟩, by simpa using h6⟩

/-- R180: `min(ENC_COUNT + 1, 255)`. -/
theorem saturatingSucc_toNat (c : Byte) : (saturatingSucc c).toNat = min (c.toNat + 1) 255 := by
  unfold saturatingSucc
  split
  · rename_i h
    subst h
    rfl
  · rename_i h
    have h1 : c.toNat ≠ 255 := fun e => h (BitVec.eq_of_toNat_eq e)
    have h2 := c.isLt
    have h3 : (1 : Byte).toNat = 1 := rfl
    rw [BitVec.toNat_add, h3]
    omega

/-- R160. -/
theorem aeadSeal_length {tagLen : Nat} {key : Vector Byte 32} {nonce : Vector Byte 12} {pt ct : Bytes}
    (h : aeadSeal tagLen key nonce pt = some ct) : ct.length = pt.length + tagLen := (lawfulSeal_some h).2.1

/-- R161. -/
theorem aeadOpen_length {tagLen : Nat} {key : Vector Byte 32} {nonce : Vector Byte 12} {ct pt : Bytes}
    (h : aeadOpen tagLen key nonce ct = some pt) : ct.length = pt.length + tagLen := (lawfulOpen_some h).2

/-- R237: a length below 2^32 is reported as it is. -/
theorem finishCommand_succeeded {len : Nat} (s : State) (h : len < 2 ^ 32) : (finishCommand len s).succeeded len := by
  refine ⟨rfl, rfl, rfl, rfl, ?_⟩
  simp only [finishCommand, completeCommand, BitVec.toNat_ofNat]
  omega

/-- R232: a command that passes its checks writes inside the buffer. -/
theorem outMax_within {i : Instr} {s : State} (h : registerError i s = none) {m : Nat} (ho : outMax i s = some m) :
    s.dst + m ≤ s.params.bufSize := by
  rw [registerError_eq_none] at h
  have hb := h.2.2.2
  cases hs : sourceLength i s with
  | none => simpa [boundsCause, hs, ho, checkDest] using hb
  | some l => exact ((boundsCause_eq_none hs ho).1 hb).2.1

/-- An error that the registers decide has a cause that goes with it, and is not one of the data (R221, R230). -/
theorem registerError_legal {i : Instr} {s : State} {e : ErrCode} {c : Cause} (h : registerError i s = some (e, c)) :
    legalStatus e c = true ∧ e ∈ [ErrCode.illegalCommand, .noCipher, .length, .bounds, .corruptImage] := by
  simp only [registerError, Option.or_eq_some_iff] at h
  rcases h with h | ⟨_, h | ⟨_, h | ⟨_, h⟩⟩⟩
  · unfold operandError at h
    split at h <;> simp only [reduceCtorEq, Option.some.injEq, Prod.mk.injEq] at h
    obtain ⟨rfl, rfl⟩ := h
    decide
  · unfold cipherError at h
    split at h
    all_goals (try split at h)
    all_goals simp only [reduceCtorEq, Option.some.injEq, Prod.mk.injEq] at h
    all_goals
      obtain ⟨rfl, rfl⟩ := h
      decide
  · unfold shapeError at h
    split at h <;> simp [errorIf, Option.or_eq_some_iff] at h
    · obtain ⟨_, rfl, rfl⟩ := h
      decide
    · obtain ⟨_, rfl, rfl⟩ := h
      decide
    · obtain ⟨_, rfl, rfl⟩ := h
      decide
    · obtain ⟨_, rfl, rfl⟩ := h
      decide
    · rcases h with ⟨_, rfl, rfl⟩ | ⟨_, _, rfl, rfl⟩ <;> decide
  · simp only [boundsError, Option.map_eq_some_iff] at h
    obtain ⟨c', h, h'⟩ := h
    cases h'
    have hc : c = .srcRange ∨ c = .dstRange ∨ c = .overlap := by
      unfold boundsCause at h
      split at h
      · simp at h
      · simp only [checkSource, Option.ite_none_right_eq_some, Option.some.injEq] at h
        simp [h.2.symm]
      · simp only [checkDest, Option.ite_none_right_eq_some, Option.some.injEq] at h
        simp [h.2.symm]
      · simp only [Option.or_eq_some_iff, checkSource, checkDest, checkOverlap, Option.ite_none_right_eq_some,
          Option.some.injEq] at h
        rcases h with ⟨_, rfl⟩ | ⟨_, ⟨_, rfl⟩ | ⟨_, _, rfl⟩⟩ <;> simp
    rcases hc with rfl | rfl | rfl <;> decide

end Sys2Proof.Machine
end

