-- ==== Sys2Proof/Laws/Bus.lean ====
section
/-! SUPPORT. What a host access reaches, what it answers, and what the other inputs do. -/

namespace Sys2Proof.Machine

/-- A block at an aligned `BASE` ends inside the bus space (R60, R66). -/
theorem base_add_span_le {p : Params} (h : p.base.toNat % Config.blockSpan = 0) :
    p.base.toNat + Config.blockSpan ≤ 2 ^ 32 := by
  have := p.base.isLt
  simp only [Config.blockSpan] at *
  omega

/-- Bus addresses of a block at an aligned `BASE` do not wrap (R66). -/
theorem busAddress_toNat {p : Params} (h : p.base.toNat % Config.blockSpan = 0) (o : BitVec 21) :
    (p.busAddress o).toNat = p.base.toNat + o.toNat := by
  have := base_add_span_le h
  have := o.isLt
  simp only [Params.busAddress, BitVec.toNat_add, BitVec.toNat_setWidth, Config.blockSpan] at *
  omega

/-- Which addresses are the block's, and with which offset (R66). -/
theorem offsetOf_eq_some {p : Params} {address : Word} {o : BitVec 21} :
    p.offsetOf address = some o ↔ address.toNat = p.base.toNat + o.toNat := by
  have := o.isLt
  simp only [Params.offsetOf, Config.blockSpan]
  split
  · simp only [Option.some.injEq, ← BitVec.toNat_inj, BitVec.toNat_ofNat]
    omega
  · simp only [reduceCtorEq, false_iff]
    omega

/-- An address is not the block's exactly when it lies outside the 2^21 bytes from `BASE` on (R66). -/
theorem offsetOf_eq_none {p : Params} {address : Word} :
    p.offsetOf address = none ↔ address.toNat < p.base.toNat ∨ p.base.toNat + Config.blockSpan ≤ address.toNat := by
  simp only [Params.offsetOf]
  split <;> simp <;> omega

/-- The `BASE` of `State.reset` is aligned (R66). -/
theorem config_base_aligned : Config.base.toNat % Config.blockSpan = 0 := by
  have := Config.basePage.isLt
  simp only [Config.base, Config.blockSpan, BitVec.toNat_ofNat] at *
  omega

/-- What is routed to the block of a list that begins with an access (R66, R248). -/
theorem routeToBlock_cons (p : Params) (a : AddressedAccess) (later : List AddressedAccess) :
    routeToBlock p (a :: later)
      = match p.transaction a with
        | some x => .bus x :: routeToBlock p later
        | none => routeToBlock p later := by
  simp only [routeToBlock, List.filterMap_cons]
  cases p.transaction a <;> rfl

/-- An aligned 32-bit access below the end of the register block reaches a register (R64). -/
theorem accessTarget_register (p : Params) (o : Nat) (h : o < registerEnd) (h4 : o % 4 = 0) :
    accessTarget p .w32 o = some (.register o) := by simp [accessTarget, h, h4]

/-- An aligned access that lies whole in the window reaches the buffer (R64, R66). -/
theorem accessTarget_buffer (p : Params) (width : Width) (o a : Nat) (h : o = windowStart + a)
    (hb : a + width.bytes ≤ p.bufSize) (ha : a % width.bytes = 0) :
    accessTarget p width o = some (.buffer a) := by
  have h1 : o % width.bytes = 0 := by
    subst h
    cases width <;> simp only [Width.bytes, windowStart] at * <;> omega
  unfold accessTarget
  rw [if_neg (by simp only [registerEnd, windowStart] at *; omega), if_pos (by omega), if_pos h1]
  subst h
  simp

/-- An access that reaches the buffer lies whole in it (R66). -/
theorem accessTarget_buffer_within {p : Params} {width : Width} {o a : Nat}
    (h : accessTarget p width o = some (.buffer a)) : a + width.bytes ≤ p.bufSize := by
  unfold accessTarget at h
  split at h
  · split at h <;> simp at h
  · split at h
    · rename_i hw
      split at h
      · simp only [Option.some.injEq, Target.buffer.injEq] at h
        omega
      · simp at h
    · simp at h

/-- An access that reaches a register is one of the aligned words of the block (R64). -/
theorem accessTarget_register_eq {p : Params} {width : Width} {o r : Nat}
    (h : accessTarget p width o = some (.register r)) : width = .w32 ∧ o < registerEnd ∧ o % 4 = 0 ∧ r = o := by
  unfold accessTarget at h
  split at h
  · split at h
    · rename_i h1 h2
      simp only [Option.some.injEq, Target.register.injEq] at h
      exact ⟨h2.1, h1, h2.2, h.symm⟩
    · simp at h
  · split at h
    · split at h <;> simp at h
    · simp at h

/-- One poll of `STATUS` answers the status word and changes nothing else of the block (R68, R102). -/
theorem pollStatus_eq (again next : List Input) (s : State) :
    pollStatus again next s =
      { s with inputs := if s.busy then again else next, replies := .data (statusWord s) :: s.replies } := by
  have h : accessTarget s.params .w32 (BitVec.ofNat 21 offStatus).toNat = some (.register offStatus) :=
    accessTarget_register _ _ (by decide) (by decide)
  simp only [pollStatus, statusRead, performAccess, performRead]
  rw [h]
  rfl

/-- A read of `STATUS` as an access of the host. -/
theorem performAccess_statusRead (s : State) :
    performAccess statusRead s = { s with replies := .data (statusWord s) :: s.replies } := by
  have h := pollStatus_eq s.inputs s.inputs s
  simpa only [pollStatus, ite_self] using h

/-- A read changes nothing of the block but, where it is illegal, the sticky bus fault (R64, R68). -/
theorem performRead_frame (width : Width) (o : Nat) (s : State) :
    ∃ r f, performRead width o s = { s with replies := r :: s.replies, busFault := f }
      ∧ (s.busFault = true → f = true) := by
  unfold performRead
  split
  · exact ⟨_, true, rfl, fun _ => rfl⟩
  · exact ⟨_, s.busFault, rfl, id⟩
  · exact ⟨_, s.busFault, rfl, id⟩

@[simp] theorem wordBytes_length (n : Nat) (v : Word) : (wordBytes n v).length = n := by simp [wordBytes]

/-- R63: bytes are a number below 256 to their count. -/
theorem littleEndian_lt (bs : Bytes) : littleEndian bs < 2 ^ (8 * bs.length) := by
  induction bs with
  | nil => simp [littleEndian]
  | cons b bs ih =>
    have h := b.isLt
    simp only [littleEndian, List.length_cons, Nat.mul_add, Nat.pow_add]
    omega

/-- R63: byte `j` of the number is byte `j` of the sequence. -/
theorem littleEndian_byte (bs : Bytes) (j : Nat) (h : j < bs.length) :
    littleEndian bs / 2 ^ (8 * j) % 256 = bs[j].toNat := by
  induction bs generalizing j with
  | nil => simp at h
  | cons b bs ih =>
    have hb := b.isLt
    cases j with
    | zero =>
      simp only [littleEndian, Nat.mul_zero, Nat.pow_zero, Nat.div_one, List.getElem_cons_zero]
      omega
    | succ j =>
      simp only [List.length_cons] at h
      have h1 := ih j (by omega)
      simp only [littleEndian, List.getElem_cons_succ]
      rw [show 8 * (j + 1) = 8 + 8 * j by omega, Nat.pow_add, ← Nat.div_div_eq_div_mul,
        show (b.toNat + 256 * littleEndian bs) / 2 ^ 8 = littleEndian bs by omega, h1]

/-! ### The other inputs -/

theorem performInput_nil {s : State} (h : s.inputs = []) : performInput s = s := by rw [performInput, h]

theorem performInput_bus {s : State} {a : Access} {rest : List Input} (h : s.inputs = .bus a :: rest) :
    performInput s = performAccess a { s with inputs := rest } := by rw [performInput, h]

theorem performInput_wait {s : State} {rest : List Input} (h : s.inputs = .wait :: rest) :
    performInput s = { s with
      inputs := if s.busy then .wait :: rest else rest, replies := .data (statusWord s) :: s.replies } := by
  rw [performInput, h]
  exact pollStatus_eq _ _ s

theorem performInput_stopOnError {s : State} {skip : Nat} {rest : List Input}
    (h : s.inputs = .stopOnError skip :: rest) :
    performInput s = { s with
      inputs := if s.busy then .stopOnError skip :: rest else if s.err = .ok then rest else rest.drop skip
      replies := .data (statusWord s) :: s.replies } := by
  rw [performInput, h]
  exact pollStatus_eq _ _ s

theorem performInput_sourceFromResult {s : State} {tmp : Word} {rest : List Input}
    (h : s.inputs = .sourceFromResult tmp :: rest) :
    performInput s = { s with
      inputs := .bus (registerWrite offSrcAddr tmp) :: .bus (registerWrite offSrcLen s.resultLen) :: rest
      replies := .data s.resultLen :: s.replies } := by
  have ht : accessTarget s.params .w32 offResultLen = some (.register offResultLen) :=
    accessTarget_register _ _ (by decide) (by decide)
  rw [performInput, h]
  simp only [performRead, ht]
  rfl

theorem performInput_reset {s : State} {rest : List Input} (h : s.inputs = .reset :: rest) :
    performInput s = resetBlock { s with inputs := rest } := by rw [performInput, h]

/-- Only a read of `STATUS`, a poll or the reset comes before the engine's step (R71). -/
theorem hostGoesFirst_bus {s : State} {a : Access} {rest : List Input} (h : s.inputs = .bus a :: rest)
    (hf : hostGoesFirst s = true) : a = statusRead := by
  simp only [hostGoesFirst, h, Input.passesBusy, Bool.and_eq_true, decide_eq_true_eq] at hf
  exact hf.1

/-- What an input can do: nothing, a reset, an answer with perhaps a bus error, or, with no command in flight, a write
of a register or of the buffer (R68). -/
theorem performInput_cases (s : State) (hb : s.inflight = none ∨ hostGoesFirst s = true) :
    performInput s = s
      ∨ (∃ rest, s.inputs = .reset :: rest ∧ performInput s = resetBlock { s with inputs := rest })
      ∨ (∃ rest replies f, performInput s = { s with inputs := rest, replies := replies, busFault := f }
          ∧ (s.busFault = true → f = true))
      ∨ (∃ width o v rest, s.inflight = none ∧ s.inputs = .bus (.write width o v) :: rest
          ∧ ((∃ r, accessTarget s.params width o.toNat = some (.register r)
                ∧ performInput s = answer .done (writeRegister r v { s with inputs := rest }))
            ∨ (∃ a, accessTarget s.params width o.toNat = some (.buffer a)
                ∧ performInput s = answer .done (writeWindow a width v { s with inputs := rest })))) := by
  match h : s.inputs with
  | [] => exact .inl (performInput_nil h)
  | .wait :: rest =>
    rw [performInput_wait h]
    exact .inr (.inr (.inl ⟨_, _, s.busFault, rfl, id⟩))
  | .stopOnError skip :: rest =>
    rw [performInput_stopOnError h]
    exact .inr (.inr (.inl ⟨_, _, s.busFault, rfl, id⟩))
  | .sourceFromResult tmp :: rest =>
    rw [performInput_sourceFromResult h]
    exact .inr (.inr (.inl ⟨_, _, s.busFault, rfl, id⟩))
  | .reset :: rest =>
    rw [performInput_reset h]
    exact .inr (.inl ⟨rest, rfl, rfl⟩)
  | .bus (.read width o) :: rest =>
    rw [performInput_bus h]
    obtain ⟨r, f, e, hf⟩ := performRead_frame width o.toNat { s with inputs := rest }
    exact .inr (.inr (.inl ⟨_, _, f, e, hf⟩))
  | .bus (.write width o v) :: rest =>
    have hidle : s.inflight = none :=
      hb.resolve_right fun hf => Access.noConfusion (hostGoesFirst_bus h hf)
    rw [performInput_bus h]
    simp only [performAccess, performWrite]
    match ht : accessTarget s.params width o.toNat with
    | none => exact .inr (.inr (.inl ⟨rest, .busError :: s.replies, true, rfl, fun _ => rfl⟩))
    | some (.register r) =>
      exact .inr (.inr (.inr ⟨width, o, v, rest, hidle, rfl, .inl ⟨r, ht, rfl⟩⟩))
    | some (.buffer a) =>
      exact .inr (.inr (.inr ⟨width, o, v, rest, hidle, rfl, .inr ⟨a, ht, rfl⟩⟩))

end Sys2Proof.Machine
end

