-- ==== Sys2Proof/Laws/PerInstr.lean ====
section
/-! SUPPORT. Statements about every command as syntax, proved per constructor. -/

namespace Sys2Proof.Laws.Fields

/-- R91: the fields of a command's word are its opcode, its `N`, and reserved bits of 0. -/
def Statement (i : Instr) : Prop :=
  cmdOpcode (encode i) = i.opcode ∧ cmdN (encode i) = i.fieldN ∧ cmdReserved (encode i) = 0

/-- Fields put together in a word are read back (R91). -/
theorem fields_of_word (n op : Byte) :
    cmdOpcode ((n.setWidth 32 <<< 8) ||| op.setWidth 32) = op
      ∧ cmdN ((n.setWidth 32 <<< 8) ||| op.setWidth 32) = n
      ∧ cmdReserved ((n.setWidth 32 <<< 8) ||| op.setWidth 32) = 0 := by
  refine ⟨?_, ?_, ?_⟩ <;> ext i hi
  · have h : i < 32 := by omega
    simp [cmdOpcode, hi, h]
  · have h : 8 + i < 32 := by omega
    have h' : i < 32 := by omega
    simp [cmdN, h, BitVec.getLsbD_eq_getElem hi]
  · have h : 16 + i < 32 := by omega
    simp [cmdReserved, h, BitVec.getLsbD_of_ge op (16 + i) (by omega),
      BitVec.getLsbD_of_ge n (16 + i - 8) (by omega)]

theorem pad (n : Byte) : Statement (.pad n) := fields_of_word _ _
theorem unpad (n : Byte) : Statement (.unpad n) := fields_of_word _ _
theorem encode : Statement .encode := fields_of_word _ _
theorem decode : Statement .decode := fields_of_word _ _
theorem generate : Statement .generate := fields_of_word _ _
theorem fromKey : Statement .fromKey := fields_of_word _ _
theorem fromArtifact : Statement .fromArtifact := fields_of_word _ _
theorem exportArtifact : Statement .exportArtifact := fields_of_word _ _
theorem encrypt : Statement .encrypt := fields_of_word _ _
theorem decrypt : Statement .decrypt := fields_of_word _ _

end Sys2Proof.Laws.Fields
end

