-- ==== Sys2Proof/Laws/Decode.lean ====
section
/-! SUPPORT. What the opcode map selects, and that the fields of a word determine it. -/

namespace Sys2Proof

/-- R93: the ten assigned opcodes. -/
def assignedOpcodes : List Byte := [0x01, 0x02, 0x03, 0x04, 0x10, 0x11, 0x12, 0x13, 0x14, 0x15]

/-- R93, R95: what an opcode selects: nothing, one of the two commands with `N`, or one without. -/
theorem selectCommand_cases (op : Byte) :
    (op ∉ assignedOpcodes ∧ selectCommand op = none)
      ∨ (op = 0x01 ∧ selectCommand op = some (withN .pad))
      ∨ (op = 0x02 ∧ selectCommand op = some (withN .unpad))
      ∨ ∃ i : Instr, op ∈ assignedOpcodes ∧ op ≠ 0x01 ∧ op ≠ 0x02 ∧ i.opcode = op ∧ i.fieldN = 0
          ∧ i.wellFormed = true ∧ selectCommand op = some (withoutN i) := by
  by_cases hm : op ∈ assignedOpcodes
  · refine .inr ?_
    simp only [assignedOpcodes, List.mem_cons, List.not_mem_nil, or_false] at hm
    rcases hm with rfl | rfl | rfl | rfl | rfl | rfl | rfl | rfl | rfl | rfl
    · exact .inl ⟨rfl, rfl⟩
    · exact .inr (.inl ⟨rfl, rfl⟩)
    · exact .inr (.inr ⟨.encode, by decide, by decide, by decide, rfl, rfl, rfl, rfl⟩)
    · exact .inr (.inr ⟨.decode, by decide, by decide, by decide, rfl, rfl, rfl, rfl⟩)
    · exact .inr (.inr ⟨.generate, by decide, by decide, by decide, rfl, rfl, rfl, rfl⟩)
    · exact .inr (.inr ⟨.fromKey, by decide, by decide, by decide, rfl, rfl, rfl, rfl⟩)
    · exact .inr (.inr ⟨.fromArtifact, by decide, by decide, by decide, rfl, rfl, rfl, rfl⟩)
    · exact .inr (.inr ⟨.exportArtifact, by decide, by decide, by decide, rfl, rfl, rfl, rfl⟩)
    · exact .inr (.inr ⟨.encrypt, by decide, by decide, by decide, rfl, rfl, rfl, rfl⟩)
    · exact .inr (.inr ⟨.decrypt, by decide, by decide, by decide, rfl, rfl, rfl, rfl⟩)
  · refine .inl ⟨hm, ?_⟩
    revert op
    decide

/-- R91: the three fields cover the word. -/
theorem word_eq_of_fields {w w' : Word} (h1 : cmdOpcode w = cmdOpcode w') (h2 : cmdN w = cmdN w')
    (h3 : cmdReserved w = cmdReserved w') : w = w' := by
  simp only [cmdOpcode, cmdN, cmdReserved, ← BitVec.toNat_inj, BitVec.extractLsb'_toNat,
    Nat.shiftRight_eq_div_pow] at *
  have := w.isLt
  have := w'.isLt
  omega

end Sys2Proof
end

