-- ==== Sys2Proof/Laws/Step.lean ====
section
/-! SUPPORT. What a step can be: the engine's, which ends with an error of the registers or with the command's body, or
an input's. -/

namespace Sys2Proof.Machine

/-- What a command does once its registers are in order. -/
def commandBody : Instr → State → State
  | .pad n => padBody n.toNat
  | .unpad n => unpadBody n.toNat
  | .encode => encodeBody
  | .decode => decodeBody
  | .generate => generateBody
  | .fromKey => fromKeyBody
  | .fromArtifact => fromArtifactBody
  | .exportArtifact => exportBody
  | .encrypt => encryptBody
  | .decrypt => decryptBody

/-- Every command answers a next state: its checks, then its body (R241). -/
theorem exec_eq (i : Instr) (s : State) : exec i s = .next (guarded i (commandBody i) s) := by
  cases i <;> rfl

/-- A command ends with the first error of its registers, or runs its body (R230). -/
theorem exec_cases {i : Instr} {s t : State} (h : exec i s = .next t) :
    (∃ e c, registerError i s = some (e, c) ∧ t = raiseError e c s)
      ∨ (registerError i s = none ∧ t = commandBody i s) := by
  rw [exec_eq] at h
  cases h
  exact guarded_cases i (commandBody i) s

theorem exec_of_registers_ok {i : Instr} {s : State} (h : registerError i s = none) :
    exec i s = .next (commandBody i s) := by rw [exec_eq, guarded_of_none h]

theorem exec_of_register_error {i : Instr} {s : State} {e : ErrCode} {c : Cause}
    (h : registerError i s = some (e, c)) : exec i s = .next (s.afterError e c) := by
  rw [exec_eq, guarded_of_some h, raiseError_eq]

/-- The engine's step runs the decoded command (R72). -/
theorem step_of_engine {s : State} {w : Word} {i : Instr} (h : s.engineNext w) (hd : decodeWord w = .ok i) :
    step s = exec i s := by
  simp [step, h.1, h.2, engineStep, hd]

/-- The engine's step rejects a word that is no command (R95, R96). -/
theorem step_of_illegal {s : State} {w : Word} {why : Illegal} (h : s.engineNext w)
    (hd : decodeWord w = .error why) : step s = .next (s.afterError .illegalCommand (illegalCause why)) := by
  simp [step, h.1, h.2, engineStep, hd, rejectCommand, raiseError_eq]

/-- With no command in flight a step is the next input's. -/
theorem step_of_idle {s : State} (h : s.inflight = none) : step s = .next (performInput s) := by
  simp [step, h, hostTurn, State.busy]

/-- While a command is in flight, an input that comes first uses up one of those that may. -/
theorem step_of_hostFirst {s : State} {w : Word} (h : s.inflight = some w) (hf : hostGoesFirst s = true) :
    step s = .next { performInput s with pollBudget := (performInput s).pollBudget - 1 } := by
  simp [step, h, hf, hostTurn, State.busy]

/-- What a step can be (R71, R72). -/
theorem step_cases {s t : State} (h : step s = .next t) :
    (s.inflight = none ∧ t = performInput s)
      ∨ (∃ w, s.inflight = some w ∧ hostGoesFirst s = true
          ∧ t = { performInput s with pollBudget := (performInput s).pollBudget - 1 })
      ∨ (∃ w i, s.engineNext w ∧ decodeWord w = .ok i ∧ exec i s = .next t)
      ∨ (∃ w why, s.engineNext w ∧ decodeWord w = .error why
          ∧ t = s.afterError .illegalCommand (illegalCause why)) := by
  cases hi : s.inflight with
  | none =>
    rw [step_of_idle hi] at h
    cases h
    exact .inl ⟨rfl, rfl⟩
  | some w =>
    cases hf : hostGoesFirst s with
    | true =>
      rw [step_of_hostFirst hi hf] at h
      cases h
      exact .inr (.inl ⟨w, rfl, rfl, rfl⟩)
    | false =>
      cases hd : decodeWord w with
      | ok i => exact .inr (.inr (.inl ⟨w, i, ⟨hi, hf⟩, hd, by rw [← step_of_engine ⟨hi, hf⟩ hd, h]⟩))
      | error why =>
        rw [step_of_illegal ⟨hi, hf⟩ hd] at h
        cases h
        exact .inr (.inr (.inr ⟨w, why, ⟨hi, hf⟩, hd, rfl⟩))

/-- A step always answers a next state: no command is refused or stuck, and no access stops the machine (R241). -/
theorem step_total (s : State) : ∃ t, step s = .next t := by
  cases hi : s.inflight with
  | none => exact ⟨_, step_of_idle hi⟩
  | some w =>
    cases hf : hostGoesFirst s with
    | true => exact ⟨_, step_of_hostFirst hi hf⟩
    | false =>
      cases hd : decodeWord w with
      | ok i => exact ⟨_, by rw [step_of_engine ⟨hi, hf⟩ hd, exec_eq]⟩
      | error why => exact ⟨_, step_of_illegal ⟨hi, hf⟩ hd⟩

/-! ### How a body ends -/

/-- A body's whole effect, whichever command it is: the new cipher slot and grid registers, the bytes written, how far
the draws went, and the status. -/
def bodyEffect (s t : State) : Prop :=
  ∃ (a : Nat) (bs : Bytes) (c : CipherSlot) (w h : Word) (d : Nat) (en : List (Option Bytes)) (e : ErrCode)
    (cause : Cause) (len : Word),
    t = { s with
          buf := Memory.store s.buf a bs, cipher := c, gridW := w, gridH := h, draws := d, entropyIn := en,
          inflight := none, done := true, err := e, cause := cause, resultLen := len }

/-- No body changes anything but what `bodyEffect` lists (R97). -/
theorem commandBody_effect (i : Instr) (s : State) : bodyEffect s (commandBody i s) := by
  cases i with
  | pad n =>
    exact ⟨s.dst, padBytes n.toNat (memRead s s.src s.len), _, _, _, _, _, _, _, _, rfl⟩
  | unpad n =>
    simp only [commandBody, unpadBody]
    split
    · exact ⟨s.dst, havocBytes s.draws (memRead s s.src n.toNat) (memRead s s.dst (n.toNat - 1)) (n.toNat - 1),
        _, _, _, _, _, _, _, _, rfl⟩
    · rename_i r _
      exact ⟨s.dst, r, _, _, _, _, _, _, _, _, rfl⟩
  | encode => exact ⟨s.dst, encodeBytes (memRead s s.src s.len), _, _, _, _, _, _, _, _, rfl⟩
  | decode =>
    simp only [commandBody, decodeBody]
    split
    · exact ⟨s.dst, havocBytes s.draws (memRead s s.src (Config.blockSize * s.gridH.toNat))
          (memRead s s.dst (Config.blockSize * s.gridH.toNat - 1)) (Config.blockSize * s.gridH.toNat - 1),
        _, _, _, _, _, _, _, _, rfl⟩
    · rename_i r _
      exact ⟨s.dst, r, _, _, _, _, _, _, _, _, rfl⟩
  | generate =>
    simp only [commandBody, generateBody]
    obtain ⟨d, e, h⟩ := drawEntropy_frame Config.keyBytes s
    split
    · rename_i s1 heq
      have h1 : s1 = _ := (congrArg Prod.snd heq).symm.trans h
      subst h1
      exact ⟨0, [], _, _, _, _, _, _, _, _, rfl⟩
    · rename_i key s1 heq
      have h1 : s1 = _ := (congrArg Prod.snd heq).symm.trans h
      subst h1
      obtain ⟨d', e', h'⟩ := drawEntropy_frame Config.nonceBytes { s with draws := d, entropyIn := e }
      split
      · rename_i s2 heq2
        have h2 : s2 = _ := (congrArg Prod.snd heq2).symm.trans h'
        subst h2
        exact ⟨0, [], _, _, _, _, _, _, _, _, rfl⟩
      · rename_i nonce s2 heq2
        have h2 : s2 = _ := (congrArg Prod.snd heq2).symm.trans h'
        subst h2
        exact ⟨0, [], _, _, _, _, _, _, _, _, rfl⟩
  | fromKey =>
    simp only [commandBody, fromKeyBody]
    obtain ⟨d, e, h⟩ := drawEntropy_frame Config.nonceBytes s
    split
    · rename_i s1 heq
      have h1 : s1 = _ := (congrArg Prod.snd heq).symm.trans h
      subst h1
      exact ⟨0, [], _, _, _, _, _, _, _, _, rfl⟩
    · rename_i nonce s1 heq
      have h1 : s1 = _ := (congrArg Prod.snd heq).symm.trans h
      subst h1
      exact ⟨0, [], _, _, _, _, _, _, _, _, rfl⟩
  | fromArtifact => exact ⟨0, [], _, _, _, _, _, _, _, _, rfl⟩
  | exportArtifact => exact ⟨s.dst, keyArtifact s.cipher, _, _, _, _, _, _, _, _, rfl⟩
  | encrypt =>
    simp only [commandBody, encryptBody]
    split
    · exact ⟨s.dst, havocBytes s.draws (keyArtifact s.cipher ++ memRead s s.src s.len)
          (memRead s s.dst (s.len + s.params.tagLen)) (s.len + s.params.tagLen), _, _, _, _, _, _, _, _, rfl⟩
    · rename_i ct _
      exact ⟨s.dst, ct, _, _, _, _, _, _, _, _, rfl⟩
  | decrypt =>
    simp only [commandBody, decryptBody]
    split
    · exact ⟨0, [], _, _, _, _, _, _, _, _, rfl⟩
    · split
      · exact ⟨s.dst, havocBytes s.draws (keyArtifact s.cipher ++ memRead s s.src s.len)
            (memRead s s.dst (s.len - s.params.tagLen)) (s.len - s.params.tagLen), _, _, _, _, _, _, _, _, rfl⟩
      · rename_i pt _
        exact ⟨s.dst, pt, _, _, _, _, _, _, _, _, rfl⟩

/-- Whatever a command does, it leaves the operand registers, the parameters and all that stands outside the engine,
and completes. -/
theorem exec_frame {i : Instr} {s t : State} (h : exec i s = .next t) :
    sameOperands s t ∧ sameOutside s t ∧ t.inflight = none ∧ t.done = true := by
  rcases exec_cases h with ⟨e, c, _, rfl⟩ | ⟨_, rfl⟩
  · exact ⟨⟨rfl, rfl, rfl⟩, ⟨rfl, rfl, rfl, rfl, rfl, rfl⟩, rfl, rfl⟩
  · obtain ⟨a, bs, c, w, hh, d, en, e, cause, len, h⟩ := commandBody_effect i s
    rw [h]
    exact ⟨⟨rfl, rfl, rfl⟩, ⟨rfl, rfl, rfl, rfl, rfl, rfl⟩, rfl, rfl⟩

/-- What a body that ends with an error has done: nothing but the status, and a havoc of the destination range for an
error of the data (R234 to R236). -/
structure BodyFailed (i : Instr) (s t : State) : Prop where
  status : t.failed t.err t.cause
  legal  : legalStatus t.err t.cause = true
  grid   : sameGrid s t
  cipher : t.cipher = s.cipher
  buffer : (sameBuffer s t ∧ t.buf = s.buf)
    ∨ ∃ m bs, outMax i s = some m ∧ bs.length = m ∧ t.buf = Memory.store s.buf s.dst bs
        ∧ sameBufferOutside s t s.dst m
        ∧ t.err ∉ [ErrCode.illegalCommand, .noCipher, .length, .bounds, .entropyError]

/-- What a body that ends without error has done: at most `OUTMAX` bytes stored, the slot constructed or an `ENCRYPT`
counted, the grid registers written by an `ENCODE` (R97, R232, R237). -/
structure BodySucceeded (i : Instr) (s t : State) : Prop where
  cause  : t.cause = .none
  buffer : (t.buf = s.buf ∧ t.resultLen = 0)
    ∨ ∃ m bs, outMax i s = some m ∧ bs.length ≤ m ∧ t.buf = Memory.store s.buf s.dst bs
        ∧ t.resultLen = BitVec.ofNat 32 bs.length
  cipher : t.cipher = s.cipher
    ∨ (∃ o, (i, o) ∈ [(Instr.generate, Origin.generated), (.fromKey, .keyMaterial), (.fromArtifact, .artifact)]
        ∧ t.cipher.valid = true ∧ t.cipher.origin = o ∧ t.cipher.encCount = 0)
    ∨ (i = .encrypt ∧ s.cipher.valid = true
        ∧ t.cipher = { s.cipher with encCount := saturatingSucc s.cipher.encCount })
  grid   : sameGrid s t ∨ (i = .encode ∧ t.gridW = 85 ∧ t.gridH.toNat = s.len / 255 + 1)

/-- A body that ends with an error of the data, its destination havocked. -/
theorem bodyFailed_of_havoc {i : Instr} {s : State} {m : Nat} (input : Bytes) (e : ErrCode) (c : Cause)
    (hm : outMax i s = some m) (hl : legalStatus e c = true)
    (he : e ∉ [ErrCode.illegalCommand, .noCipher, .length, .bounds, .entropyError]) :
    BodyFailed i s (raiseError e c (havoc input s.dst m s)) where
  status := ⟨rfl, rfl, rfl, rfl, rfl⟩
  legal  := hl
  grid   := ⟨rfl, rfl⟩
  cipher := rfl
  buffer := .inr ⟨m, havocBytes s.draws input (memRead s s.dst m) m, hm, by simp, rfl,
    sameBufferOutside_havoc s input s.dst m, he⟩

/-- A body that ends with an error, whatever it has drawn. -/
theorem bodyFailed_of_draws {i : Instr} {s : State} (d : Nat) (en : List (Option Bytes)) (e : ErrCode) (c : Cause)
    (hl : legalStatus e c = true) : BodyFailed i s (raiseError e c { s with draws := d, entropyIn := en }) where
  status := ⟨rfl, rfl, rfl, rfl, rfl⟩
  legal  := hl
  grid   := ⟨rfl, rfl⟩
  cipher := rfl
  buffer := .inl ⟨fun _ => rfl, rfl⟩

/-- A body that stores bytes and reports their number. -/
theorem bodySucceeded_of_write {i : Instr} {s : State} {m n : Nat} {bs : Bytes} (hm : outMax i s = some m)
    (hn : bs.length = n) (hl : n ≤ m) : BodySucceeded i s (finishCommand n (memWrite s.dst bs s)) where
  cause  := rfl
  buffer := .inr ⟨m, bs, hm, by omega, rfl, by rw [hn]; rfl⟩
  cipher := .inl rfl
  grid   := .inl ⟨rfl, rfl⟩

/-- A body that constructs the cipher slot, whatever it has drawn. -/
theorem bodySucceeded_of_construct {i : Instr} {s : State} (d : Nat) (en : List (Option Bytes)) (o : Origin)
    (key : Vector Byte 32) (nonce : Vector Byte 12)
    (ho : (i, o) ∈ [(Instr.generate, Origin.generated), (.fromKey, .keyMaterial), (.fromArtifact, .artifact)]) :
    BodySucceeded i s (finishCommand 0 (constructCipher o key nonce { s with draws := d, entropyIn := en })) where
  cause  := rfl
  buffer := .inl ⟨rfl, rfl⟩
  cipher := .inr (.inl ⟨o, ho, rfl, rfl, rfl⟩)
  grid   := .inl ⟨rfl, rfl⟩

/-- A terminal row cannot have a count above 255 (R146). -/
theorem decodeBytes_error {fc : Bool} {g : Bytes} {h : Nat} {c : Cause} (hd : decodeBytes fc g h = .error c) :
    c = .zeroCount ∨ c = .filler := by
  unfold decodeBytes at hd
  rcases unpadBytes_cases fc Config.blockSize ((g.drop (Config.blockSize * (h - 1))).take Config.blockSize) with
    ⟨e, _⟩ | ⟨e, hk⟩ | ⟨e, _⟩ | ⟨e, _⟩ <;> rw [e] at hd
  · cases hd
    exact .inl rfl
  · have h1 := padCount_lt Config.blockSize ((g.drop (Config.blockSize * (h - 1))).take Config.blockSize)
    simp only [Config.blockSize] at h1 hk
    omega
  · cases hd
    exact .inr rfl
  · cases hd

/-- What decodes is shorter than its grid (R144). -/
theorem decodeBytes_length {fc : Bool} {g out : Bytes} {h : Nat} (hh : h ≠ 0)
    (hd : decodeBytes fc g h = .ok out) : out.length ≤ Config.blockSize * h - 1 := by
  unfold decodeBytes at hd
  rcases unpadBytes_cases fc Config.blockSize ((g.drop (Config.blockSize * (h - 1))).take Config.blockSize) with
    ⟨e, _⟩ | ⟨e, _⟩ | ⟨e, _⟩ | ⟨e, hk, _⟩ <;> rw [e] at hd
  · cases hd
  · cases hd
  · cases hd
  · cases hd
    simp only [List.length_append, List.length_take, Config.blockSize] at *
    omega

/-- However a body's command ends (R72). -/
theorem commandBody_ends (i : Instr) (s : State) (hr : registerError i s = none) :
    ((commandBody i s).err ≠ .ok ∧ BodyFailed i s (commandBody i s))
      ∨ ((commandBody i s).err = .ok ∧ BodySucceeded i s (commandBody i s)) := by
  have hreg := registerError_eq_none.1 hr
  cases i with
  | pad n =>
    have hl : s.len ≤ n.toNat := by simpa [shapeError, errorIf] using hreg.2.2.1
    exact .inr ⟨rfl, bodySucceeded_of_write rfl (padBytes_length (by simpa using hl)) le_rfl⟩
  | unpad n =>
    simp only [commandBody, unpadBody]
    rcases unpadBytes_cases s.params.fillerCheck n.toNat (memRead s s.src n.toNat) with
      ⟨e, _⟩ | ⟨e, _⟩ | ⟨e, _⟩ | ⟨e, h1, h2, _⟩ <;> rw [e]
    · exact .inl ⟨by simp, bodyFailed_of_havoc _ _ _ rfl rfl (by decide)⟩
    · exact .inl ⟨by simp, bodyFailed_of_havoc _ _ _ rfl rfl (by decide)⟩
    · exact .inl ⟨by simp, bodyFailed_of_havoc _ _ _ rfl rfl (by decide)⟩
    · refine .inr ⟨rfl, bodySucceeded_of_write rfl rfl ?_⟩
      simp only [List.length_take, memRead_length]
      omega
  | encode =>
    have hlen : (encodeBytes (memRead s s.src s.len)).length = 255 * rowCount s.len := by
      rw [encodeBytes_length, memRead_length]
    refine .inr ⟨rfl, ?_⟩
    exact
      { cause := rfl
        buffer := .inr ⟨_, _, rfl, le_of_eq hlen, rfl, by rw [hlen]; rfl⟩
        cipher := .inl rfl
        grid := .inr ⟨rfl, rfl, by
          have h := s.srcLen.isLt
          simp only [commandBody, encodeBody, finishCommand, completeCommand, BitVec.toNat_ofNat, rowCount,
            Config.blockSize, State.len]
          omega⟩ }
  | decode =>
    simp only [commandBody, decodeBody]
    have hH : s.gridH.toNat ≠ 0 := by
      have h := hreg.2.2.1
      simp [shapeError, errorIf, Option.or_eq_none_iff] at h
      exact h.2
    cases e : decodeBytes s.params.fillerCheck (memRead s s.src (Config.blockSize * s.gridH.toNat)) s.gridH.toNat with
    | error c =>
      have hl : legalStatus .corruptImage c = true := by
        rcases decodeBytes_error e with rfl | rfl <;> rfl
      exact .inl ⟨by simp, bodyFailed_of_havoc _ _ _ rfl hl (by decide)⟩
    | ok out => exact .inr ⟨rfl, bodySucceeded_of_write rfl rfl (decodeBytes_length hH e)⟩
  | generate =>
    simp only [commandBody, generateBody]
    obtain ⟨d, en, h⟩ := drawEntropy_frame Config.keyBytes s
    rcases hd : drawEntropy Config.keyBytes s with ⟨o, s1⟩
    rw [hd] at h
    subst h
    cases o with
    | none => exact .inl ⟨by simp, bodyFailed_of_draws d en _ _ rfl⟩
    | some key =>
      obtain ⟨d', en', h'⟩ := drawEntropy_frame Config.nonceBytes { s with draws := d, entropyIn := en }
      rcases hd' : drawEntropy Config.nonceBytes { s with draws := d, entropyIn := en } with ⟨o, s2⟩
      rw [hd'] at h'
      subst h'
      simp only [hd']
      cases o with
      | none => exact .inl ⟨by simp, bodyFailed_of_draws d' en' _ _ rfl⟩
      | some nonce => exact .inr ⟨rfl, bodySucceeded_of_construct d' en' _ _ _ (by simp)⟩
  | fromKey =>
    simp only [commandBody, fromKeyBody]
    obtain ⟨d, en, h⟩ := drawEntropy_frame Config.nonceBytes s
    rcases hd : drawEntropy Config.nonceBytes s with ⟨o, s1⟩
    rw [hd] at h
    subst h
    cases o with
    | none => exact .inl ⟨by simp, bodyFailed_of_draws d en _ _ rfl⟩
    | some nonce => exact .inr ⟨rfl, bodySucceeded_of_construct d en _ _ _ (by simp)⟩
  | fromArtifact => exact .inr ⟨rfl, bodySucceeded_of_construct s.draws s.entropyIn _ _ _ (by simp)⟩
  | exportArtifact => exact .inr ⟨rfl, bodySucceeded_of_write rfl (keyArtifact_length s.cipher) le_rfl⟩
  | encrypt =>
    have hv : s.cipher.valid = true := by simpa [cipherError] using hreg.2.1
    simp only [commandBody, encryptBody]
    cases hs : aeadSeal s.params.tagLen s.cipher.key s.cipher.nonce (memRead s s.src s.len) with
    | none => exact .inl ⟨by simp, bodyFailed_of_havoc _ _ _ rfl rfl (by decide)⟩
    | some ct =>
      have hlen := aeadSeal_length hs
      rw [memRead_length] at hlen
      refine .inr ⟨rfl, ?_⟩
      exact
        { cause := rfl
          buffer := .inr ⟨_, ct, rfl, le_of_eq hlen, rfl, by rw [hlen]; rfl⟩
          cipher := .inr (.inr ⟨rfl, hv, rfl⟩)
          grid := .inl ⟨rfl, rfl⟩ }
  | decrypt =>
    simp only [commandBody, decryptBody]
    split
    · exact .inl ⟨by simp, bodyFailed_of_draws s.draws s.entropyIn _ _ rfl⟩
    · cases hs : aeadOpen s.params.tagLen s.cipher.key s.cipher.nonce (memRead s s.src s.len) with
      | none => exact .inl ⟨by simp, bodyFailed_of_havoc _ _ _ rfl rfl (by decide)⟩
      | some pt =>
        have hlen := aeadOpen_length hs
        rw [memRead_length] at hlen
        exact .inr ⟨rfl, bodySucceeded_of_write rfl (by omega) le_rfl⟩

/-- `s` with other contents of `ERR` and `CAUSE`. -/
abbrev State.withStatus (s : State) (e : ErrCode) (c : Cause) : State := { s with err := e, cause := c }

/-- A draw neither reads nor writes `ERR` and `CAUSE`. -/
theorem drawEntropy_withStatus (n : Nat) (s : State) (e : ErrCode) (c : Cause) :
    drawEntropy n (s.withStatus e c) = ((drawEntropy n s).1, (drawEntropy n s).2.withStatus e c) := by
  simp only [drawEntropy, State.withStatus]
  cases s.entropyIn <;> rfl

/-- The body of a command overwrites `ERR` and `CAUSE` and does not read them (R31). -/
theorem commandBody_withStatus (i : Instr) (s : State) (e : ErrCode) (c : Cause) :
    commandBody i (s.withStatus e c) = commandBody i s := by
  cases i with
  | pad n => rfl
  | unpad n =>
    simp only [commandBody, unpadBody]
    rw [show memRead (s.withStatus e c) = memRead s from rfl]
    change
      (match unpadBytes s.params.fillerCheck n.toNat (memRead s s.src n.toNat) with
        | .error c' => _
        | .ok r => _) = _
    generalize unpadBytes s.params.fillerCheck n.toNat (memRead s s.src n.toNat) = r
    cases r <;> rfl
  | encode => rfl
  | decode =>
    simp only [commandBody, decodeBody]
    rw [show memRead (s.withStatus e c) = memRead s from rfl]
    change
      (match decodeBytes s.params.fillerCheck (memRead s s.src _) s.gridH.toNat with
        | .error c' => _
        | .ok r => _) = _
    generalize decodeBytes s.params.fillerCheck (memRead s s.src (Config.blockSize * s.gridH.toNat)) s.gridH.toNat = r
    cases r <;> rfl
  | generate =>
    simp only [commandBody, generateBody, drawEntropy_withStatus]
    rcases drawEntropy Config.keyBytes s with ⟨_ | key, s1⟩
    · rfl
    · simp only [drawEntropy_withStatus]
      rcases drawEntropy Config.nonceBytes s1 with ⟨_ | nonce, s2⟩ <;> rfl
  | fromKey =>
    simp only [commandBody, fromKeyBody, drawEntropy_withStatus]
    rcases drawEntropy Config.nonceBytes s with ⟨_ | nonce, s1⟩ <;> rfl
  | fromArtifact => rfl
  | exportArtifact => rfl
  | encrypt =>
    simp only [commandBody, encryptBody]
    rw [show memRead (s.withStatus e c) = memRead s from rfl]
    change
      (match aeadSeal s.params.tagLen s.cipher.key s.cipher.nonce (memRead s s.src s.len) with
        | none => _
        | some r => _) = _
    generalize aeadSeal s.params.tagLen s.cipher.key s.cipher.nonce (memRead s s.src s.len) = r
    cases r <;> rfl
  | decrypt =>
    simp only [commandBody, decryptBody]
    rw [show memRead (s.withStatus e c) = memRead s from rfl]
    change
      (if s.len < s.params.tagLen then _
        else match aeadOpen s.params.tagLen s.cipher.key s.cipher.nonce (memRead s s.src s.len) with
          | none => _
          | some r => _) = _
    generalize aeadOpen s.params.tagLen s.cipher.key s.cipher.nonce (memRead s s.src s.len) = r
    by_cases h : s.len < s.params.tagLen
    · rw [if_pos h, if_pos h]
      rfl
    · rw [if_neg h, if_neg h]
      cases r <;> rfl

/-- So what a command does does not depend on how the last one ended (R31). -/
theorem exec_withStatus (i : Instr) (s : State) (e : ErrCode) (c : Cause) : exec i (s.withStatus e c) = exec i s := by
  rw [exec_eq, exec_eq]
  have h : registerError i (s.withStatus e c) = registerError i s := rfl
  simp only [guarded, h, commandBody_withStatus]
  cases registerError i s <;> rfl

end Sys2Proof.Machine
end

