-- ==== Sys2Proof/Laws/Run.lean ====
section
/-! SUPPORT. Runs of many steps: how they compose, and what a register write and a command followed by the
stop-on-error read come to, however many polls the schedule lets come first. -/

namespace Sys2Proof.Machine

/-- Some number of steps leads from `s` to `t`. -/
def Reaches (s t : State) : Prop := ∃ k, Host.Core.run Sys2Proof.core k s = .next t

theorem run_succ {s t : State} (h : step s = .next t) (k : Nat) :
    Host.Core.run Sys2Proof.core (k + 1) s = Host.Core.run Sys2Proof.core k t := by
  have hc : Sys2Proof.core.step s = .next t := h
  simp only [Host.Core.run, hc]

theorem Reaches.refl (s : State) : Reaches s s := ⟨0, rfl⟩

theorem Reaches.head {s t u : State} (h : step s = .next t) (ht : Reaches t u) : Reaches s u := by
  obtain ⟨k, hk⟩ := ht
  exact ⟨k + 1, (run_succ h k).trans hk⟩

theorem Reaches.trans {s t u : State} (h : Reaches s t) (h' : Reaches t u) : Reaches s u := by
  obtain ⟨k, hk⟩ := h
  induction k generalizing s with
  | zero =>
    cases hk
    exact h'
  | succ k ih =>
    obtain ⟨s', hs⟩ := step_total s
    rw [run_succ hs] at hk
    exact .head hs (ih hk)

/-- With no command in flight, one step performs a write of a register. -/
theorem Reaches.of_w32 {s : State} {o : Nat} {v : Word} {rest : List Input} (hi : s.inflight = none)
    (h : s.inputs = w32 o v :: rest) (ho : o < registerEnd) (h4 : o % 4 = 0) :
    Reaches s (answer .done (writeRegister o v { s with inputs := rest })) := by
  have ho' : (BitVec.ofNat 21 o).toNat = o := by
    simp only [BitVec.toNat_ofNat, registerEnd] at *
    omega
  refine .head (step_of_idle hi) ?_
  rw [performInput_bus h]
  simp only [registerWrite, performAccess, performWrite, ho', accessTarget_register _ _ ho h4]
  exact .refl _

/-- A command in flight, followed by the stop-on-error read, is executed after some polls, each of which is answered
and uses up one of those that may come first. -/
theorem Reaches.engine (n : Nat) (s : State) (i : Instr) (skip : Nat) (rest : List Input)
    (hi : s.inflight = some (encode i)) (hd : decodeWord (encode i) = .ok i)
    (h : s.inputs = .stopOnError skip :: rest) (hn : s.pollBudget = n) :
    ∃ replies b, Reaches s (guarded i (commandBody i) { s with replies := replies, pollBudget := b }) := by
  induction n generalizing s with
  | zero =>
    have hf : hostGoesFirst s = false := by simp [hostGoesFirst, h, hn]
    exact ⟨s.replies, s.pollBudget, .head ((step_of_engine ⟨hi, hf⟩ hd).trans (exec_eq i s)) (.refl _)⟩
  | succ n ih =>
    have hf : hostGoesFirst s = true := by simp [hostGoesFirst, h, hn, Input.passesBusy]
    have hb : s.busy = true := by simp [State.busy, hi]
    have hs := step_of_hostFirst hi hf
    rw [performInput_stopOnError h, if_pos hb] at hs
    obtain ⟨r, b, hr⟩ := ih
      { s with inputs := .stopOnError skip :: rest, replies := .data (statusWord s) :: s.replies,
               pollBudget := s.pollBudget - 1 } hi rfl (by simp [hn])
    refine ⟨r, b, .head hs ?_⟩
    convert hr using 3

/-- With no command in flight, a command and the stop-on-error read after it come to the command's effect on a state
that differs from the given one only in what stands outside the block and in how the command was started; then the
host goes on, or leaves out the rest of its sequence (R205). -/
theorem Reaches.of_command {s : State} {i : Instr} {skip : Nat} {rest : List Input} (hi : s.inflight = none)
    (hw : decodeWord (encode i) = .ok i) (h : s.inputs = command i :: .stopOnError skip :: rest) :
    ∃ r b l u,
      exec i { s with inflight := some (encode i), done := false, draws := s.draws + 1,
                      inputs := .stopOnError skip :: rest, replies := r, pollBudget := b } = .next u
        ∧ Reaches s { u with inputs := if u.err = .ok then rest else rest.drop skip, replies := l } := by
  obtain ⟨r, b, hr⟩ := Reaches.engine _
    (answer .done (writeRegister offCmd (encode i) { s with inputs := .stopOnError skip :: rest })) i skip rest rfl hw
    rfl rfl
  refine ⟨r, b, ?_⟩
  have hx := exec_eq i { s with inflight := some (encode i), done := false, draws := s.draws + 1,
                                inputs := .stopOnError skip :: rest, replies := r, pollBudget := b }
  obtain ⟨_, ho, hfl, _⟩ := exec_frame hx
  generalize hu : guarded i (commandBody i)
    { s with inflight := some (encode i), done := false, draws := s.draws + 1,
             inputs := .stopOnError skip :: rest, replies := r, pollBudget := b } = u at *
  have hin : u.inputs = .stopOnError skip :: rest := ho.2.2.2.2.1
  have hbu : u.busy = false := by simp [State.busy, hfl]
  have hlast := step_of_idle hfl
  rw [performInput_stopOnError hin, hbu, if_neg Bool.false_ne_true] at hlast
  refine ⟨.data (statusWord u) :: u.replies, u, hx, (Reaches.of_w32 hi h (by decide) (by decide)).trans ?_⟩
  refine hr.trans (.head ?_ (.refl _))
  exact hu ▸ hlast

/-- `SRC a, l` (R102). -/
theorem Reaches.of_setSource {s : State} {a l : Nat} {rest : List Input} (hi : s.inflight = none)
    (h : s.inputs = setSource a l ++ rest) :
    ∃ r, Reaches s { s with srcAddr := BitVec.ofNat 32 a, srcLen := BitVec.ofNat 32 l, inputs := rest, replies := r } := by
  have h1 := Reaches.of_w32 (rest := w32 offSrcLen (BitVec.ofNat 32 l) :: rest) hi h (by decide) (by decide)
  have h2 := Reaches.of_w32
    (s := answer .done (writeRegister offSrcAddr (BitVec.ofNat 32 a) { s with inputs := w32 offSrcLen (BitVec.ofNat 32 l) :: rest }))
    (rest := rest) hi rfl (by decide) (by decide)
  exact ⟨_, h1.trans h2⟩

/-- `DST a` (R102). -/
theorem Reaches.of_setDest {s : State} {a : Nat} {rest : List Input} (hi : s.inflight = none)
    (h : s.inputs = setDest a ++ rest) :
    ∃ r, Reaches s { s with dstAddr := BitVec.ofNat 32 a, inputs := rest, replies := r } :=
  ⟨_, Reaches.of_w32 hi h (by decide) (by decide)⟩

/-- `GRID w, h` (R102). -/
theorem Reaches.of_setGrid {s : State} {w g : Nat} {rest : List Input} (hi : s.inflight = none)
    (h : s.inputs = setGrid w g ++ rest) :
    ∃ r, Reaches s { s with gridW := BitVec.ofNat 32 w, gridH := BitVec.ofNat 32 g, inputs := rest, replies := r } := by
  have h1 := Reaches.of_w32 (rest := w32 offGridH (BitVec.ofNat 32 g) :: rest) hi h (by decide) (by decide)
  have h2 := Reaches.of_w32
    (s := answer .done (writeRegister offGridW (BitVec.ofNat 32 w) { s with inputs := w32 offGridH (BitVec.ofNat 32 g) :: rest }))
    (rest := rest) hi rfl (by decide) (by decide)
  exact ⟨_, h1.trans h2⟩

/-- The step of `OPEN_IMAGE` that makes `RESULT_LEN` the next source length (R203). -/
theorem Reaches.of_sourceFromResult {s : State} {tmp : Word} {rest : List Input} (hi : s.inflight = none)
    (h : s.inputs = .sourceFromResult tmp :: rest) :
    ∃ r, Reaches s { s with srcAddr := tmp, srcLen := s.resultLen, inputs := rest, replies := r } := by
  have h0 := step_of_idle hi
  rw [performInput_sourceFromResult h] at h0
  have h1 := Reaches.of_w32
    (s := { s with inputs := w32 offSrcAddr tmp :: w32 offSrcLen s.resultLen :: rest
                   replies := .data s.resultLen :: s.replies })
    (rest := w32 offSrcLen s.resultLen :: rest) hi rfl (by decide) (by decide)
  have h2 := Reaches.of_w32
    (s := answer .done (writeRegister offSrcAddr tmp
      { s with inputs := w32 offSrcLen s.resultLen :: rest, replies := .data s.resultLen :: s.replies }))
    (rest := rest) hi rfl (by decide) (by decide)
  exact ⟨_, .head h0 (h1.trans h2)⟩

end Sys2Proof.Machine
end

