-- ==== Sys2Proof/Tests/Slice0.lean ====
section
/-! SUPPORT. Tests: ill-formed terms, words written out from the encoding, single steps of the spec's test vectors
(`95_test_vectors.md`), and for every statement with hypotheses a state that meets them. -/

namespace Sys2Proof.Tests

open Sys2Proof Sys2Proof.Machine

/-! ### A small state and what a step leaves in it -/

/-- A block with the parameters of the test vectors, `T` = 16, at an aligned `BASE`, after reset. -/
def block : State := { State.reset with params := { base := 0x40200000, bufSize := 65536, tagLen := 16, fillerCheck := true } }

/-- A block without the filler check. -/
def lenient : State := { State.reset with params := { base := 0x40200000, bufSize := 65536, tagLen := 16, fillerCheck := false } }

/-- The operand registers. -/
def regs (src len dst : Nat) (s : State) : State :=
  { s with srcAddr := BitVec.ofNat 32 src, srcLen := BitVec.ofNat 32 len, dstAddr := BitVec.ofNat 32 dst }

/-- The grid registers. -/
def grid (w h : Nat) (s : State) : State := { s with gridW := BitVec.ofNat 32 w, gridH := BitVec.ofNat 32 h }

/-- A cipher whose key bytes are 1 and nonce bytes 2, with a count. -/
def keyed (count : Byte) (s : State) : State :=
  { s with cipher := { valid := true, origin := .generated, encCount := count,
                       key := Vector.replicate 32 1, nonce := Vector.replicate 12 2 } }

/-- A word in flight, the engine's step next. -/
def latched (w : Word) (s : State) : State := { s with inflight := some w }

/-- The host's next accesses. -/
def host (l : List Input) (s : State) : State := { s with inputs := l }

/-- A part of the next state. -/
def field {α : Type} (f : State → α) : Host.Outcome State Fault Refusal → Option α
  | .next t => some (f t)
  | .fault _ => none
  | .refused _ => none

/-- `STATUS`, `RESULT_LEN` and bytes of the buffer. -/
def report (a n : Nat) (t : State) : Word × Word × Bytes := (statusWord t, t.resultLen, memRead t a n)

/-! ### Well-formedness (R92) -/

theorem test_pad_zero_is_refused : (Instr.pad 0).wellFormed = false := by decide
theorem test_unpad_zero_is_refused : (Instr.unpad 0).wellFormed = false := by decide
theorem test_pad_bounds_are_accepted : (Instr.pad 1).wellFormed = true ∧ (Instr.pad 255).wellFormed = true := by decide

/-! ### Decoding words written out from R91 to R93 and R101 -/

theorem test_decode_pad : decodeWord 0b0000000000000000_11111111_00000001#32 = .ok (.pad 255) := by decide
theorem test_decode_unpad : decodeWord 0b0000000000000000_00000100_00000010#32 = .ok (.unpad 4) := by decide
theorem test_decode_encode : decodeWord 0b0000000000000000_00000000_00000011#32 = .ok .encode := by decide
theorem test_decode_decode : decodeWord 0b0000000000000000_00000000_00000100#32 = .ok .decode := by decide
theorem test_decode_generate : decodeWord 0b0000000000000000_00000000_00010000#32 = .ok .generate := by decide
theorem test_decode_fromKey : decodeWord 0b0000000000000000_00000000_00010001#32 = .ok .fromKey := by decide
theorem test_decode_fromArtifact : decodeWord 0b0000000000000000_00000000_00010010#32 = .ok .fromArtifact := by decide
theorem test_decode_export : decodeWord 0b0000000000000000_00000000_00010011#32 = .ok .exportArtifact := by decide
theorem test_decode_encrypt : decodeWord 0b0000000000000000_00000000_00010100#32 = .ok .encrypt := by decide
theorem test_decode_decrypt : decodeWord 0b0000000000000000_00000000_00010101#32 = .ok .decrypt := by decide

/-- E-1 to E-4: opcodes in each gap. -/
theorem test_bad_opcodes :
    [0x00000000#32, 0x00000005#32, 0x00000016#32, 0x000000FF#32].map decodeWord
      = List.replicate 4 (.error .badOpcode) := by decide
/-- E-5 to E-10: the order of the checks. -/
theorem test_check_order :
    [0x00010000#32, 0x00010003#32, 0x80000401#32, 0x00000103#32, 0x00000001#32, 0x00000002#32].map decodeWord
      = [.error .badOpcode, .error .reservedBits, .error .reservedBits, .error .badN, .error .badN, .error .badN] := by
  decide
/-- The table word of `UNPAD` with its `N` field is the whole instruction. -/
theorem test_table_word : decodeTableWord 32 0x0402 = some (.unpad 4) := by decide
/-- A row of the table run as the first command after reset (R168: no cipher yet). -/
theorem test_first_command :
    field statusWord (step (State.reset.withFetchWord 32 0x13)) = some 0x202 := by decide

/-! ### Commands, from the vectors of `95_test_vectors.md` -/

/-- P-1. -/
theorem test_pad_short :
    field (report 0x10 4) (exec (.pad 4) (regs 0 2 0x10 (memWrite 0 [0x41, 0x42] block)))
      = some (0x2, 4, [0x41, 0x42, 0x00, 0x02]) := by decide
/-- P-3: a full block passes through. -/
theorem test_pad_full :
    field (report 0x10 4) (exec (.pad 4) (regs 0 4 0x10 (memWrite 0 [0x41, 0x42, 0x43, 0x44] block)))
      = some (0x2, 4, [0x41, 0x42, 0x43, 0x44]) := by decide
/-- P-15: bytes after the data stay. -/
theorem test_unpad :
    field (report 0x10 4)
        (exec (.unpad 4) (regs 0 4 0x10 (memWrite 0x10 [9, 9, 7, 8] (memWrite 0 [0x41, 0x42, 0, 2] block))))
      = some (0x2, 2, [0x41, 0x42, 7, 8]) := by decide
/-- P-20 and P-21: the filler check. -/
theorem test_unpad_filler :
    field statusWord (exec (.unpad 4) (regs 0 4 0x10 (memWrite 0 [0x41, 0x42, 7, 2] block))) = some 0x8502
      ∧ field (report 0x10 2) (exec (.unpad 4) (regs 0 4 0x10 (memWrite 0 [0x41, 0x42, 7, 2] lenient)))
        = some (0x2, 2, [0x41, 0x42]) := by decide
/-- C-2: the first pixel, the count byte in the last pixel, and the grid registers. -/
theorem test_encode :
    field (fun t => (t.gridW, t.gridH, t.resultLen, readPixel t 0x400 85 0 0, readPixel t 0x400 85 0 84))
        (exec .encode (regs 0 2 0x400 (memWrite 0 [0x41, 0x42] block)))
      = some (85, 1, 255, { r := 0x41, g := 0x42, b := 0x00 }, { r := 0x00, g := 0x00, b := 0xFD }) := by
  decide +kernel
/-- C-9. -/
theorem test_encode_overlap :
    field statusWord (exec .encode (regs 0 2 1 block)) = some 0x5402 := by decide
/-- C-12. -/
theorem test_decode :
    field (report 0x400 2)
        (exec .decode (grid 85 1 (regs 0 0 0x400
          (memWrite 0 ([0x41, 0x42] ++ List.replicate 252 0 ++ [0xFD]) block))))
      = some (0x2, 2, [0x41, 0x42]) := by decide +kernel
/-- C-22 and C-23: the width before the height, and no wrap in the source range. -/
theorem test_decode_dimensions :
    field statusWord (exec .decode (grid 0 0 block)) = some 0x1602
      ∧ field statusWord (exec .decode (grid 85 0xFFFFFFFF block)) = some 0x3402 := by decide
/-- K-3. -/
theorem test_generate :
    field (fun t => (cipherStatusWord t, statusWord t, t.cipher.key.toList, t.cipher.nonce.toList))
        (exec .generate { block with entropyIn := [some (List.replicate 32 5), some (List.replicate 12 6)] })
      = some (0x3, 0x2, List.replicate 32 5, List.replicate 12 6) := by decide
/-- K-4: a failed key draw; the answer meant for the nonce is not taken. -/
theorem test_generate_fails :
    field (fun t => (statusWord t, t.cipher.valid, t.entropyIn))
        (exec .generate { block with entropyIn := [none, some (List.replicate 12 6)] })
      = some (0x902, false, [some (List.replicate 12 6)]) := by decide
/-- K-6. -/
theorem test_fromKey :
    field (fun t => (cipherStatusWord t, t.cipher.key.toList, t.cipher.nonce.toList))
        (exec .fromKey (regs 0 32 0
          { memWrite 0 (List.replicate 32 7) block with entropyIn := [some (List.replicate 12 6)] }))
      = some (0x5, List.replicate 32 7, List.replicate 12 6) := by decide
/-- K-10. -/
theorem test_fromArtifact :
    field (fun t => (cipherStatusWord t, t.cipher.key.toList, t.cipher.nonce.toList))
        (exec .fromArtifact (regs 8 44 0 (memWrite 8 (List.replicate 32 7 ++ List.replicate 12 6) block)))
      = some (0x7, List.replicate 32 7, List.replicate 12 6) := by decide
/-- K-12. -/
theorem test_export :
    field (report 0x200 44) (exec .exportArtifact (regs 0 0 0x200 (keyed 0 block)))
      = some (0x2, 44, List.replicate 32 1 ++ List.replicate 12 2) := by decide
/-- K-2: no cipher is reported before a bound. -/
theorem test_encrypt_no_cipher :
    field statusWord (exec .encrypt (regs 0xFFFFFFFF 1 0 block)) = some 0x202 := by decide
/-- K-14, K-16: the count, which stays at 255. -/
theorem test_encrypt_count :
    cipherStatusWord (countEncrypt (keyed 0 block)) = 0x103
      ∧ cipherStatusWord (countEncrypt (keyed 255 block)) = 0xFF03 := by decide
/-- K-20: `SRC_LEN` = `T` - 1. -/
theorem test_decrypt_short :
    field statusWord (exec .decrypt (regs 0 15 0x100 (keyed 0 block))) = some 0xC702 := by decide
/-- K-23: the ranges overlap in their last byte. -/
theorem test_decrypt_overlap :
    field statusWord (exec .decrypt (regs 0x100 26 0x119 (keyed 0 block))) = some 0x5402 := by decide

/-! ### The bus -/

/-- B-1, B-2, B-4. -/
theorem test_config_words :
    config0Word = 0x0C2055FF ∧ config1Word block.params = 0x12C10 ∧ config1Word lenient.params = 0x2C10
      ∧ bufSizeWord block.params = 0x10000 := by decide
/-- B-15: a 32-bit write of the window. -/
theorem test_window_write :
    field (fun t => memRead t 0 4) (step (host [.bus (.write .w32 0x100000 0x44434241)] block))
      = some [0x41, 0x42, 0x43, 0x44] := by decide
/-- B-15: a 16-bit read of it. -/
theorem test_window_read :
    field (fun t => t.replies)
        (step (host [.bus (.read .w16 0x100002)] (memWrite 0 [0x41, 0x42, 0x43, 0x44] block)))
      = some [.data 0x4443] := by decide
/-- B-10 to B-14: bus errors. -/
theorem test_bus_errors :
    [Access.read .w16 0x010, .read .w32 0x012, .read .w32 0x030, .read .w8 0x110000, .write .w16 0x100001 5].map
        (fun a => field (fun t => (t.busFault, t.replies)) (step (host [.bus a] block)))
      = List.replicate 5 (some (true, [.busError])) := by decide
/-- R66 with `BASE` = 0x40200000: the first and the last address of the block, and those before and after. -/
theorem test_bus_address :
    [0x40200000#32, 0x403FFFFF, 0x401FFFFF, 0x40400000].map block.params.offsetOf
        = [some 0, some 0x1FFFFF, none, none]
      ∧ block.params.busAddress 0x00C = 0x4020000C := by decide
/-- R66, R248: of three writes in bus space the block sees the two at its addresses. -/
theorem test_routing :
    routeToBlock block.params
        [.write .w32 0x40200014 5, .write .w8 0x40400000 6, .write .w8 0x40300000 7]
      = [.bus (.write .w32 0x014 5), .bus (.write .w8 0x100000 7)] := by decide
/-- B-17: `STATUS` while a command is in flight, after a command that ended with 0x6602. -/
theorem test_status_while_busy :
    field (fun t => (t.replies, t.inflight))
        (step (host [.bus (.read .w32 0x010)]
          { block with inflight := some 3, err := .corruptImage, cause := .zeroCount, pollBudget := 1 }))
      = some ([.data 0x6601], some 3) := by decide
/-- B-18: a read of `RESULT_LEN` holds. -/
theorem test_read_holds :
    field (fun t => (t.replies, t.inputs))
        (step (host [.bus (.read .w32 0x020)] { latched 0x16 block with pollBudget := 1 }))
      = some ([], [.bus (.read .w32 0x020)]) := by decide
/-- B-19. -/
theorem test_reset_in_flight :
    field (fun t => (statusWord t, cipherStatusWord t, t.inflight, t.cipher.key.toList))
        (step (host [.reset] { keyed 3 (latched 3 block) with pollBudget := 1 }))
      = some (0, 0, none, List.replicate 32 0) := by decide

/-! ### Witnesses: for each statement with hypotheses, states and operands that meet all of them together

A statement with several clauses has one for each, at the edge of its range. -/

/-- DecodeInvertsEncode. -/
theorem witness_decode_inverts_encode :
    (Instr.pad 1).wellFormed = true ∧ (Instr.unpad 255).wellFormed = true
      ∧ decodeWord 0x0000FF02#32 = .ok (.unpad 255) := by decide

/-- IllegalWordCompletesWithFirstCause: a word for each clause, at the edges of the opcode map. -/
theorem witness_illegal_words :
    (latched 0x00010000 block).engineNext 0x00010000 ∧ (latched 0x00000116 block).engineNext 0x00000116
      ∧ (latched 0x00010003 block).engineNext 0x00010003 ∧ (latched 0x80000001 block).engineNext 0x80000001
      ∧ (latched 0x00000002 block).engineNext 0x00000002 ∧ (latched 0x0000FF15 block).engineNext 0x0000FF15
      ∧ (0x00010000#32).extractLsb' 0 8 = 0x00#8 ∧ (0x00000116#32).extractLsb' 0 8 = 0x16#8
      ∧ (0x00010003#32).extractLsb' 16 16 ≠ 0#16 ∧ (0x80000001#32).extractLsb' 16 16 ≠ 0#16
      ∧ (0x00000002#32).extractLsb' 8 8 = 0#8 ∧ (0x0000FF15#32).extractLsb' 8 8 ≠ 0#8
      ∧ (0x0000FF15#32).extractLsb' 16 16 = 0#16 := by
  simp only [State.engineNext]
  decide

/-- StepRunsDecodedCommand, EngineStepCompletes. -/
theorem witness_engine_next :
    (latched 0x00000402 block).engineNext 0x00000402 ∧ decodeWord 0x00000402#32 = .ok (.unpad 4) := by
  simp only [State.engineNext]
  decide

/-- The engine's step can be next while a poll waits, and come first while an access that holds waits. -/
theorem witness_engine_next_with_inputs :
    (host [.wait] (latched 0x3 block)).engineNext 0x3
      ∧ (host [.bus (.read .w32 0x020)] { latched 0x3 block with pollBudget := 7 }).engineNext 0x3 := by
  simp only [State.engineNext]
  decide

/-- UnpadInvertsPad, PadInvertsUnpad: the smallest and the largest block, the empty and the longest data. -/
theorem witness_padding :
    (1 ≤ 1 ∧ 1 ≤ 255 ∧ ([] : Bytes).length < 1 ∧ unpadBytes true 1 [0x01] = .ok [])
      ∧ (1 ≤ 255 ∧ 255 ≤ 255 ∧ (List.replicate 254 (0 : Byte)).length < 255)
      ∧ unpadBytes true 4 [0x41, 0x42, 0x00, 0x02] = .ok [0x41, 0x42]
      ∧ (unpadBytes false 4 [0x41, 0x42, 0x07, 0x02] = .ok [0x41, 0x42] ∧ ([0x41, 0x42] : Bytes).length ≤ 2 ∧ 2 < 4 - 1
          ∧ ([0x41, 0x42, 0x07, 0x02] : Bytes).getD 2 0 ≠ 0) := by
  refine ⟨⟨by decide, by decide, by decide, rfl⟩, ⟨by decide, by decide, by rw [List.length_replicate]; decide⟩, rfl,
    ⟨rfl, by decide, by decide, by decide⟩⟩

/-- The parameters of the test states. -/
theorem witness_params : block.params.inRange ∧ lenient.params.inRange := by
  simp only [Params.inRange]
  decide

/-- DecodeInvertsEncoding, EncodeWritesGrid, EncodedGridHasPixelLayout: an empty source, and one row at the end of the
buffer; and the `DECODE` that follows. -/
theorem witness_encode :
    (regs 0 0 0 block).rangesOk 0 255 ∧ (regs 0 254 0xFF01 block).rangesOk 254 255
      ∧ (regs 0 255 0x400 block).rangesOk 255 510 ∧ (regs 0xFF01 0 0 block).rangesOk 255 254
      ∧ (regs 0xFF01 0 0 block).srcAddr = (regs 0 254 0xFF01 block).dstAddr := by
  simp only [State.rangesOk]
  decide

/-- EncodedGridHasPixelLayout: the last pixel of a grid of one row. -/
theorem witness_pixel : 0 < (regs 0 254 0xFF01 block).len / 255 + 1 ∧ 84 < 85 := by decide

/-- NoCipherReportedFirst. -/
theorem witness_no_cipher : block.cipher.valid = false ∧ Instr.decrypt ∈ [Instr.exportArtifact, .encrypt, .decrypt] := by
  decide

/-- WrongLengthReported: one byte off each required length. -/
theorem witness_wrong_length :
    (255 : Byte) ≠ 0 ∧ (255 : Byte).toNat < (regs 0 256 0 block).len
      ∧ (1 : Byte) ≠ 0 ∧ (regs 0 0 0 block).len ≠ (1 : Byte).toNat
      ∧ (regs 0 31 0 block).len ≠ 32 ∧ (regs 0 45 0 block).len ≠ 44 := by decide

/-- DimensionErrorsReported. -/
theorem witness_dimensions :
    (grid 84 0 block).gridW.toNat ≠ 85 ∧ (grid 85 0 block).gridW.toNat = 85 ∧ (grid 85 0 block).gridH.toNat = 0 := by
  decide

/-- BoundsErrorsReported, source range: one byte past the end for each command with a source. -/
theorem witness_source_range :
    ((4 : Byte) ≠ 0 ∧ (regs 0xFFFD 4 0 block).len ≤ (4 : Byte).toNat ∧ 65536 < (regs 0xFFFD 4 0 block).src + 4)
      ∧ ((regs 0xFFFD 4 0 block).len = (4 : Byte).toNat)
      ∧ ((grid 85 1 (regs 0xFF02 0 0 block)).gridW.toNat = 85 ∧ (grid 85 1 (regs 0xFF02 0 0 block)).gridH.toNat ≠ 0
          ∧ 65536 < (grid 85 1 (regs 0xFF02 0 0 block)).src + 255 * (grid 85 1 (regs 0xFF02 0 0 block)).gridH.toNat)
      ∧ ((keyed 0 (regs 0x10000 1 0 block)).cipher.valid = true ∧ 65536 < (keyed 0 (regs 0x10000 1 0 block)).src + 1)
      ∧ ((regs 0xFFE1 32 0 block).len = 32 ∧ 65536 < (regs 0xFFE1 32 0 block).src + 32)
      ∧ ((regs 0xFFD5 44 0 block).len = 44 ∧ 65536 < (regs 0xFFD5 44 0 block).src + 44) := by decide

/-- BoundsErrorsReported, destination range: one byte past the end, the source in range. -/
theorem witness_destination_range :
    ((regs 0 4 0xFFFD block).src + 4 ≤ 65536 ∧ 65536 < (regs 0 4 0xFFFD block).dst + 4)
      ∧ (65536 < (regs 0 4 0xFFFE block).dst + 3) ∧ (65536 < (regs 0 0 0xFF02 block).dst + 255)
      ∧ (65536 < (grid 85 1 (regs 0 0 0xFF03 block)).dst + 254)
      ∧ (65536 < (keyed 0 (regs 0 1 0xFFF0 block)).dst + (1 + 16))
      ∧ (65536 < (keyed 0 (regs 0 17 0x10000 block)).dst + (17 - 16))
      ∧ (65536 < (keyed 0 (regs 0 0 0xFFD5 block)).dst + 44) := by decide

/-- BoundsErrorsReported, overlap: the ranges share one byte, at either end. -/
theorem witness_overlap :
    ((regs 0 4 3 block).src < (regs 0 4 3 block).dst + 4 ∧ (regs 0 4 3 block).dst < (regs 0 4 3 block).src + 4)
      ∧ ((regs 3 4 0 block).src < (regs 3 4 0 block).dst + 4 ∧ (regs 3 4 0 block).dst < (regs 3 4 0 block).src + 4) := by
  decide

/-- FailingCommandChangesOnlyStatus: an error of the registers and one of the data. -/
theorem witness_failing_command :
    exec .encode (regs 0 2 1 block) = .next ((regs 0 2 1 block).afterError .bounds .overlap)
      ∧ step (latched 0x16 block) = .next ((latched 0x16 block).afterError .illegalCommand .badOpcode)
      ∧ field (fun t => decide (t.err ≠ .ok)) (exec (.unpad 4) (regs 0 4 0x10 (memWrite 0 [0, 0, 0, 0] block)))
        = some true := ⟨rfl, rfl, by decide⟩

/-- PadWritesPaddedBlock: the empty source, and the full block that ends with the buffer. -/
theorem witness_pad :
    ((1 : Byte) ≠ 0 ∧ (regs 0x10000 0 0 block).len ≤ (1 : Byte).toNat ∧ (regs 0x10000 0 0 block).rangesOk 0 1)
      ∧ ((4 : Byte) ≠ 0 ∧ (regs 0 4 0xFFFC block).len ≤ (4 : Byte).toNat ∧ (regs 0 4 0xFFFC block).rangesOk 4 4) := by
  simp only [State.rangesOk]
  decide

/-- UnpadWritesData: a count of 1, and a count of the whole block with its filler zero. -/
theorem witness_unpad :
    (∃ s : State, s.len = (2 : Byte).toNat ∧ s.rangesOk 2 1 ∧ (s.readByte (s.src + 1)).toNat = 1
        ∧ s.params.fillerCheck = true)
      ∧ ∃ s : State, s.len = (2 : Byte).toNat ∧ s.rangesOk 2 1 ∧ (s.readByte (s.src + 1)).toNat = 2
        ∧ ∀ j, 2 - 2 ≤ j → j < 2 - 1 → s.readByte (s.src + j) = 0 := by
  refine ⟨⟨regs 0 2 0x10 (memWrite 0 [0x41, 0x01] block), rfl, ?_, rfl, rfl⟩,
    ⟨regs 0 2 0x10 (memWrite 0 [0x00, 0x02] block), rfl, ?_, rfl, fun j _ h => ?_⟩⟩
  · simp only [State.rangesOk]
    decide
  · simp only [State.rangesOk]
    decide
  · obtain rfl : j = 0 := by omega
    rfl

/-- UnpadReportsPaddingError: a block for each cause. -/
theorem witness_unpad_error :
    (regs 0 4 0x10 block).rangesOk 4 3
      ∧ ((memWrite 0 [0, 0, 0, 0] block).readByte (0 + 3)).toNat = 0
      ∧ 4 < ((memWrite 0 [0, 0, 0, 5] block).readByte (0 + 3)).toNat
      ∧ (1 ≤ ((memWrite 0 [7, 0, 0, 4] block).readByte (0 + 3)).toNat
          ∧ ((memWrite 0 [7, 0, 0, 4] block).readByte (0 + 3)).toNat ≤ 4 ∧ block.params.fillerCheck = true
          ∧ (memWrite 0 [7, 0, 0, 4] block).readByte (0 + 0) ≠ 0) := by
  simp only [State.rangesOk]
  decide

/-- DecodeWritesBytes: one row at the end of the buffer with a count of 1. -/
theorem witness_decode :
    ∃ s : State, s.params.inRange ∧ s.gridW.toNat = 85 ∧ s.gridH.toNat = 1 ∧ s.rangesOk 255 254
      ∧ (s.readByte (s.src + 254)).toNat = 1 ∧ s.params.fillerCheck = true :=
  ⟨grid 85 1 (regs 0xFF01 0 0 (memWrite 0xFFFF [1] block)), witness_params.1, rfl, rfl, by
    simp only [State.rangesOk]
    decide, by decide, rfl⟩

/-- DecodeReportsCorruptImage: a count of 0, and a filler byte that is not 0. -/
theorem witness_decode_error :
    (grid 85 1 (regs 0 0 0x400 block)).rangesOk 255 254
      ∧ ((memWrite 254 [0] block).readByte (0 + 254)).toNat = 0
      ∧ ((memWrite 253 [7, 2] block).readByte (0 + 254)).toNat = 2
      ∧ (memWrite 253 [7, 2] block).readByte (0 + 253) ≠ 0 := by
  simp only [State.rangesOk]
  decide

/-- GenerateConstructsCipher, FromKeyConstructsCipher, EntropyFailureKeepsCipher: the settled answers. -/
theorem witness_entropy :
    (List.replicate 32 (5 : Byte)).length = 32 ∧ (List.replicate 12 (6 : Byte)).length = 12
      ∧ (regs 0xFFE0 32 0 block).len = 32 ∧ (regs 0xFFE0 32 0 block).src + 32 ≤ 65536
      ∧ { block with entropyIn := [some (List.replicate 32 5), some (List.replicate 12 6)] }.entropyIn
          = some (List.replicate 32 5) :: some (List.replicate 12 6) :: []
      ∧ { block with entropyIn := [some (List.replicate 32 5), none] }.entropyIn
          = some (List.replicate 32 5) :: none :: []
      ∧ { regs 0xFFE0 32 0 block with entropyIn := [some (List.replicate 12 6)] }.entropyIn
          = some (List.replicate 12 6) :: [] := by decide

/-- FromArtifactConstructsCipher, ExportWritesArtifact, ArtifactRebuildsCipher: 44 bytes at the end of the buffer. -/
theorem witness_artifact :
    (regs 0xFFD4 44 0 block).len = 44 ∧ (regs 0xFFD4 44 0 block).src + 44 ≤ 65536
      ∧ (keyed 0 (regs 0 0 0xFFD4 block)).cipher.valid = true ∧ (keyed 0 (regs 0 0 0xFFD4 block)).dst + 44 ≤ 65536
      ∧ memRead (memWrite 0xFFD4 (keyArtifact (keyed 0 block).cipher) block) 0xFFD4 44
          = memRead (exportBody (keyed 0 (regs 0 0 0xFFD4 block))) 0xFFD4 44 := by
  refine ⟨by decide, by decide, rfl, by decide, rfl⟩

/-- EncryptWritesCiphertext, DecryptInvertsEncrypt: the empty plaintext, and one that ends with the buffer. (What
`AEAD_SEAL` answers is free, so neither answer can be exhibited: the statement covers both.) -/
theorem witness_encrypt :
    (keyed 0 (regs 0 0 0xFFF0 block)).rangesOk 0 16 ∧ (keyed 255 (regs 0xFFF6 10 0 block)).rangesOk 10 26
      ∧ (keyed 0 (regs 0 0 0xFFF0 block)).cipher.valid = true := by
  simp only [State.rangesOk]
  decide

/-- DecryptWritesPlaintext, DecryptReportsShortInput: exactly a tag, and one byte less. -/
theorem witness_decrypt :
    ((keyed 0 (regs 0 16 0 block)).rangesOk 16 0 ∧ (keyed 0 (regs 0 16 0 block)).params.tagLen ≤ 16)
      ∧ ((keyed 0 (regs 0 15 0 block)).rangesOk 15 0 ∧ 15 < (keyed 0 (regs 0 15 0 block)).params.tagLen) := by
  simp only [State.rangesOk]
  decide

/-- EveryLawfulAeadIsAdmitted: some pair of functions is lawful. -/
theorem witness_lawful_aead :
    LawfulAead (fun n _ _ pt => some (pt ++ List.replicate n 0))
      (fun n _ _ ct => if n ≤ ct.length then some (ct.take (ct.length - n)) else none) := by
  refine ⟨fun n k i pt ct h => ?_, fun n k i ct pt h => ?_, fun n k i pt ct h => ?_⟩
  · cases h
    simp
  · by_cases hn : n ≤ ct.length
    · simp only [hn, if_true, Option.some.injEq] at h
      subst h
      exact ⟨hn, by simp⟩
    · simp [hn] at h
  · cases h
    simp

/-- RegisterReadsAnswer, RegisterAccessRules (reads of the words with reserved bits and writes of read-only registers
among them), CmdWriteStartsCommand, IllegalAccessIsBusError, WaitAndStopOnError, SourceFromResultReadsLength: an access
next, with no command in flight. -/
theorem witness_input_next :
    (host [.bus (.read .w32 0x02C)] block).inputNext (.bus (.read .w32 0x02C)) []
      ∧ (host [.bus (.read .w32 0x004)] block).inputNext (.bus (.read .w32 0x004)) []
      ∧ (host [.bus (.write .w32 0x000 3)] block).inputNext (.bus (.write .w32 0x000 3)) []
      ∧ (host [.bus (.write .w32 0x02C 3)] block).inputNext (.bus (.write .w32 0x02C 3)) []
      ∧ (host [.bus (.write .w32 0x028 3)] block).inputNext (.bus (.write .w32 0x028 3)) []
      ∧ (host [.bus (.write .w32 0x00C 0x14), .wait] block).inputNext (.bus (.write .w32 0x00C 0x14)) [.wait]
      ∧ (host [.wait] block).inputNext .wait [] ∧ (host [.stopOnError 2] block).inputNext (.stopOnError 2) []
      ∧ (host [.sourceFromResult 0x300] block).inputNext (.sourceFromResult 0x300) []
      ∧ { block with err := ErrCode.bounds }.err ≠ .ok := by
  simp only [State.inputNext]
  decide

/-- IllegalAccessIsBusError: the edges of the unmapped ranges, and the smallest misalignments. -/
theorem witness_illegal_access :
    (0x030 ≤ (0x030 : BitVec 21).toNat ∧ (0x030 : BitVec 21).toNat < 0x100000)
      ∧ (0x030 ≤ (0x0FFFFF : BitVec 21).toNat ∧ (0x0FFFFF : BitVec 21).toNat < 0x100000)
      ∧ 0x100000 + block.params.bufSize ≤ (0x110000 : BitVec 21).toNat
      ∧ 0x100000 + block.params.bufSize ≤ (0x1FFFFF : BitVec 21).toNat
      ∧ (0x100001 : BitVec 21).toNat % Width.w16.bytes ≠ 0 ∧ (0x100002 : BitVec 21).toNat % Width.w32.bytes ≠ 0
      ∧ ((0x02F : BitVec 21).toNat < 0x030 ∧ (0x02F : BitVec 21).toNat % 4 ≠ 0)
      ∧ ((0x000 : BitVec 21).toNat < 0x030 ∧ Width.w16 ≠ .w32) := by decide

/-- BusMapIsRelativeToBase: the last register, the ends of the window and of the unmapped ranges, the addresses beside
the block, and two blocks with different `BASE`. -/
theorem witness_bus_map :
    block.params.inRange ∧ { block.params with base := 0 }.inRange ∧ block.params.base ≠ 0
      ∧ block.params.offsetOf 0x40200000 ≠ none
      ∧ (0x4020002C#32).toNat = block.params.base.toNat + 0x02C
      ∧ (0x4030FFFF#32).toNat = block.params.base.toNat + 0x100000 + 0xFFFF
      ∧ (0x40200030#32).toNat = block.params.base.toNat + 0x030
      ∧ (0x403FFFFF#32).toNat = block.params.base.toNat + 0x1FFFFF
      ∧ (0x401FFFFF#32).toNat < block.params.base.toNat
      ∧ block.params.base.toNat + 0x200000 ≤ (0x40400000#32).toNat
      ∧ (host (routeToBlock block.params [.read .w32 0x4020002C]) block).inputs
          = routeToBlock (host (routeToBlock block.params [.read .w32 0x4020002C]) block).params
              [.read .w32 0x4020002C] := by
  refine ⟨witness_params.1, ?_, by decide⟩
  simp only [Params.inRange]
  decide

/-- BufferWindowIsLittleEndian: the first and the last word of the window. -/
theorem witness_window :
    ((0x100000 : BitVec 21).toNat = 0x100000 + 0 ∧ 0 + Width.w32.bytes ≤ block.params.bufSize
        ∧ 0 % Width.w32.bytes = 0)
      ∧ ((0x10FFFC : BitVec 21).toNat = 0x100000 + 0xFFFC ∧ 0xFFFC + Width.w32.bytes ≤ block.params.bufSize
        ∧ 0xFFFC % Width.w32.bytes = 0)
      ∧ (host [.bus (.read .w32 0x10FFFC)] block).inputNext (.bus (.read .w32 0x10FFFC)) [] := by
  simp only [State.inputNext]
  decide

/-- AccessHoldsWhileBusy, StatusReadPassesWhileBusy, CommandEndsWithinBudget: a command in flight with an access that
holds, and with one that passes. -/
theorem witness_busy :
    ((host [.bus (.read .w8 0x010)] (latched 3 block)).inflight = some 3
        ∧ (host [.bus (.read .w8 0x010)] (latched 3 block)).inputs = [.bus (.read .w8 0x010)]
        ∧ Access.read .w8 0x010 ≠ .read .w32 0x010)
      ∧ ({ host [.bus (.read .w32 0x010)] (latched 3 block) with pollBudget := 1 }.done = false
        ∧ 0 < { host [.bus (.read .w32 0x010)] (latched 3 block) with pollBudget := 1 }.pollBudget
        ∧ { host [.bus (.read .w32 0x010)] (latched 3 block) with pollBudget := 1 }.inputs
            = [.bus (.read .w32 0x010)]) := by decide

/-- ResetLeavesStatedValues: idle, and while a command is in flight. -/
theorem witness_reset :
    ((host [.reset] block).inputs = [.reset] ∧ (host [.reset] block).inflight = none)
      ∧ ((host [.reset] (keyed 2 (latched 0x14 block))).inputs = [.reset]
        ∧ 0 < { host [.reset] (keyed 2 (latched 0x14 block)) with pollBudget := 1 }.pollBudget) := by decide

/-- InvariantKeptByEveryStep: a state with bytes in its buffer and a cipher, and its step. -/
theorem witness_invariant :
    State.inv (keyed 1 (memWrite 0xFFFF [9] block))
      ∧ step (keyed 1 (memWrite 0xFFFF [9] block)) = .next (keyed 1 (memWrite 0xFFFF [9] block)) := by
  refine ⟨⟨witness_params.1, ⟨?_, ?_⟩, ⟨rfl, fun h => absurd rfl h, by decide, fun h => by cases h⟩,
    by decide, by decide⟩, rfl⟩
  · decide
  · decide

/-- CipherSlotChangesOnlyAsStated, GridRegistersWrittenOnlyAsStated, ErrorFieldsWrittenOnlyAtCompletion,
BusFaultIsSticky, KeyIsNotOnTheBus: steps with and without a bus fault. -/
theorem witness_steps :
    step (host [.wait] block) = .next { block with replies := [.data 0] }
      ∧ step { block with busFault := true } = .next { block with busFault := true }
      ∧ (host [.wait] block).inputs.head? ≠ some .reset ∧ (host [.wait] block).inflight = none := by
  refine ⟨?_, rfl, by decide, rfl⟩
  rw [step, hostTurn]
  simp only [performInput, host, pollStatus_eq]
  rfl

/-- CipherSlotChangesOnlyAsStated: the engine's step of each construction that succeeds over an older cipher, and a reset
that comes before the engine's step. (That `ENCRYPT` succeeds cannot be exhibited, for what `AEAD_SEAL` answers is
free.) -/
theorem witness_construction_step :
    let old := keyed 7 block
    ((latched 0x10 { old with entropyIn := [some (List.replicate 32 5), some (List.replicate 12 6)] }).engineNext 0x10
        ∧ decodeWord 0x10 = .ok .generate
        ∧ field State.err (step (latched 0x10
            { old with entropyIn := [some (List.replicate 32 5), some (List.replicate 12 6)] })) = some .ok)
      ∧ ((latched 0x11 (regs 0 32 0 { old with entropyIn := [some (List.replicate 12 6)] })).engineNext 0x11
        ∧ decodeWord 0x11 = .ok .fromKey
        ∧ field State.err (step (latched 0x11 (regs 0 32 0 { old with entropyIn := [some (List.replicate 12 6)] })))
          = some .ok)
      ∧ ((latched 0x12 (regs 8 44 0 old)).engineNext 0x12 ∧ decodeWord 0x12 = .ok .fromArtifact
        ∧ field State.err (step (latched 0x12 (regs 8 44 0 old))) = some .ok)
      ∧ { host [.reset] (latched 0x14 old) with pollBudget := 1 }.resetNext := by
  simp only [State.engineNext, State.resetNext]
  decide

/-- GridRegistersWrittenOnlyAsStated, ErrorFieldsWrittenOnlyAtCompletion: the engine's step of an `ENCODE` that
succeeds. -/
theorem witness_encode_step :
    (latched 3 (regs 0 1 0x400 (memWrite 0 [5] block))).engineNext 3 ∧ decodeWord 3 = .ok .encode
      ∧ field State.err (step (latched 3 (regs 0 1 0x400 (memWrite 0 [5] block)))) = some .ok := by
  simp only [State.engineNext]
  decide +kernel

/-- CodecDependsOnSourceAlone: two blocks that differ in their cipher and in other bytes. -/
theorem witness_codec :
    memRead (regs 0 1 0x400 (memWrite 0 [5] block)) 0 1
        = memRead (keyed 3 (regs 0 1 0x400 (memWrite 0 [5, 6] block))) 0 1
      ∧ (keyed 3 (regs 0 1 0x400 (memWrite 0 [5, 6] block))).params = (regs 0 1 0x400 (memWrite 0 [5] block)).params
      ∧ memRead (grid 85 1 block) 0 (255 * (grid 85 1 block).gridH.toNat)
        = memRead (keyed 3 (grid 85 1 block)) 0 (255 * (grid 85 1 block).gridH.toNat) :=
  ⟨by decide, rfl, rfl⟩

/-- PlainRoundTripRestoresBytes: two bytes, and no byte at all with every range at the start. -/
theorem witness_plain_round_trip :
    (host (plainImage 0 2 0x100 ++ plainOpen 0x100 85 (2 / 255 + 1) 0x300) block).inputs
        = plainImage 0 2 0x100 ++ plainOpen 0x100 85 (2 / 255 + 1) 0x300
      ∧ 0 + 2 ≤ 65536 ∧ 0x100 + 255 * (2 / 255 + 1) ≤ 65536 ∧ 0x300 + (255 * (2 / 255 + 1) - 1) ≤ 65536
      ∧ 0 + 2 ≤ 0x100 ∧ 0x100 + 255 * (2 / 255 + 1) ≤ 0x300 := by
  refine ⟨rfl, by decide, by decide, by decide, by decide, by decide⟩

/-- SealedRoundTripRestoresBytes: program P6 of `95_test_vectors.md` with `T` = 16 and both draws settled. (That
`AEAD_SEAL` answers them cannot be exhibited, for what it answers is free.) -/
theorem witness_sealed_round_trip :
    rangesDisjoint 0 10 0x100 26 ∧ rangesDisjoint 0 10 0x080 44 ∧ rangesDisjoint 0x100 26 0x200 255
      ∧ rangesDisjoint 0x100 26 0x080 44 ∧ rangesDisjoint 0x200 255 0x080 44
      ∧ rangesDisjoint 0x200 255 0x300 254 ∧ rangesDisjoint 0x300 26 0x400 10
      ∧ 1 = (10 + block.params.tagLen) / 255 + 1
      ∧ { block with
            entropyIn := [some (keyed 0 block).cipher.key.toList, some (keyed 0 block).cipher.nonce.toList] }.entropyIn
          = some (keyed 0 block).cipher.key.toList :: some (keyed 0 block).cipher.nonce.toList :: []
      ∧ (host (sealImage 16 0 10 0x100 0x200 0x080) block).inputs = sealImage block.params.tagLen 0 10 0x100 0x200 0x080
      ∧ 0x200 + 255 * 1 ≤ block.params.bufSize ∧ 0x400 + 10 ≤ block.params.bufSize := by
  simp only [rangesDisjoint]
  refine ⟨by decide, by decide, by decide, by decide, by decide, by decide, by decide, rfl, trivial,
    rfl, by decide, by decide⟩

/-! ### A random state with fresh entropy -/

/-- The block after reset with a key and a nonce settled uniformly at random. -/
noncomputable def drawn : PMF State :=
  (PMF.uniformOfFintype (List.Vector Byte 32 × List.Vector Byte 12)).map
    fun x => { State.reset with entropyIn := [some x.1.1, some x.2.1] }

open Classical in
/-- Every state with answers of these lengths is equally likely, and no other is possible. -/
theorem drawn_apply (s : State) : drawn s
    = if ∃ k n : Bytes, k.length = 32 ∧ n.length = 12 ∧ s = { State.reset with entropyIn := [some k, some n] }
      then ((Fintype.card (List.Vector Byte 32 × List.Vector Byte 12) : ENNReal))⁻¹ else 0 := by
  rw [drawn, PMF.map_apply]
  split
  · rename_i h
    obtain ⟨k, n, hk, hn, rfl⟩ := h
    rw [tsum_eq_single ((⟨k, hk⟩, ⟨n, hn⟩) : List.Vector Byte 32 × List.Vector Byte 12)]
    · rw [if_pos rfl, PMF.uniformOfFintype_apply]
    · rintro ⟨⟨k', hk'⟩, ⟨n', hn'⟩⟩ hne
      rw [if_neg]
      intro h
      have := congrArg State.entropyIn h
      simp only [List.cons.injEq, Option.some.injEq, and_true] at this
      obtain ⟨rfl, rfl⟩ := this
      exact hne rfl
  · rename_i h
    simp only [ENNReal.tsum_eq_zero]
    intro x
    rw [if_neg]
    rintro rfl
    exact h ⟨x.1.1, x.2.1, x.1.2, x.2.2, rfl⟩

/-- FreshEntropyGivesUniformCipher: a random state that has `ENTROPY_FRESH`. -/
theorem witness_fresh_entropy : EntropyFresh 2 drawn := by
  classical
  have swap : ∀ (s : State) (k : Nat) (bs bs' : Bytes), s.entropyIn[k]? = some (some bs) → bs'.length = bs.length →
      (∃ kb n : Bytes, kb.length = 32 ∧ n.length = 12 ∧ s = { State.reset with entropyIn := [some kb, some n] }) →
      ∃ kb n : Bytes, kb.length = 32 ∧ n.length = 12
        ∧ { s with entropyIn := s.entropyIn.set k (some bs') } = { State.reset with entropyIn := [some kb, some n] } := by
    rintro s k bs bs' he hl ⟨kb, nb, hk, hn, rfl⟩
    match k, he with
    | 0, he => cases he; exact ⟨bs', nb, by omega, hn, rfl⟩
    | 1, he => cases he; exact ⟨kb, bs', hk, by omega, rfl⟩
  refine ⟨fun s h => ?_, fun s k bs bs' _ he hl => ?_⟩
  · rw [drawn_apply] at h
    split_ifs at h with hs
    · obtain ⟨_, _, _, _, rfl⟩ := hs; simp
    · exact absurd rfl h
  · rw [drawn_apply, drawn_apply]
    congr 1
    refine propext ⟨fun h => ?_, swap s k bs bs' he hl⟩
    have hlt : k < s.entropyIn.length := (List.getElem?_eq_some_iff.1 he).1
    have := swap _ k bs' bs (by simp [hlt]) hl.symm h
    have e : (s.entropyIn.set k (some bs')).set k (some bs) = s.entropyIn := by
      obtain ⟨h1, h2⟩ := List.getElem?_eq_some_iff.1 he
      rw [List.set_set, ← h2, List.set_getElem_self]
    simpa only [e] using this

end Sys2Proof.Tests
end

section
/-! PROOFS. The scope of the model (R14, R66, R160, R161): the restriction of the AEAD is no restriction, and the
invariant of the block holds at reset and is kept by every step. -/

namespace Sys2Proof.Machine

/-! ### The restriction of the AEAD (log 2) -/

/-- A function that obeys the length law of R161 is not changed by its restriction to it. -/
theorem lawfulOpen_eq_self {opened : Nat → Vector Byte 32 → Vector Byte 12 → Bytes → Option Bytes}
    (hlen : ∀ tagLen key nonce ct pt, opened tagLen key nonce ct = some pt → ct.length = pt.length + tagLen) :
    lawfulOpen opened = opened := by
  funext tagLen key nonce ct
  unfold lawfulOpen
  cases h : opened tagLen key nonce ct with
  | none => rfl
  | some pt => exact if_pos (hlen _ _ _ _ _ h)

/-- A function that obeys the length law of R160 and, against `opened`, the correctness law of R161 is not changed by
its restriction to them. -/
theorem lawfulSeal_eq_self {sealed opened : Nat → Vector Byte 32 → Vector Byte 12 → Bytes → Option Bytes}
    (hlen : ∀ tagLen key nonce pt ct, sealed tagLen key nonce pt = some ct → ct.length = pt.length + tagLen)
    (hopen : ∀ tagLen key nonce pt ct, sealed tagLen key nonce pt = some ct → opened tagLen key nonce ct = some pt) :
    lawfulSeal sealed opened = sealed := by
  funext tagLen key nonce pt
  unfold lawfulSeal
  cases h : sealed tagLen key nonce pt with
  | none => rfl
  | some ct => exact if_pos ⟨hlen _ _ _ _ _ h, hopen _ _ _ _ _ h⟩

/-- Any two functions, restricted as log 2 says, obey the laws of R160 and R161. -/
theorem lawfulAead_restricted (sealRaw openRaw : Nat → Vector Byte 32 → Vector Byte 12 → Bytes → Option Bytes) :
    LawfulAead (lawfulSeal sealRaw (lawfulOpen openRaw)) (lawfulOpen openRaw) := by
  refine ⟨fun tagLen key nonce pt ct h => ?_, fun tagLen key nonce ct pt h => ?_, fun tagLen key nonce pt ct h => ?_⟩
  · obtain ⟨_, hlen, _⟩ := lawfulSeal_some h
    exact hlen
  · obtain ⟨_, hlen⟩ := lawfulOpen_some h
    omega
  · obtain ⟨_, _, hopen⟩ := lawfulSeal_some h
    exact hopen

/-- Settles O35: the two restrictions test laws that a lawful pair meets, and they enforce those laws on any pair. -/
theorem everyLawfulAeadIsAdmitted : Obligations.EveryLawfulAeadIsAdmitted := by
  refine ⟨?_, lawfulAead_restricted⟩
  rintro sealed opened ⟨hseal, hlen, hcorrect⟩
  have hadd : ∀ tagLen key nonce ct pt, opened tagLen key nonce ct = some pt → ct.length = pt.length + tagLen := by
    intro tagLen key nonce ct pt h
    obtain ⟨hle, hsub⟩ := hlen tagLen key nonce ct pt h
    omega
  exact ⟨lawfulOpen_eq_self hadd, lawfulSeal_eq_self hseal hcorrect⟩

/-! ### The invariant at reset -/

/-- R14, R66: the parameters at reset are those of some block. -/
theorem paramsDefault_inRange : Params.default.inRange := by
  have htag : Config.tagLen ≤ 255 := Config.tagLenPred.isLt
  exact ⟨by decide, by decide, Nat.le_add_left _ _, htag, config_base_aligned⟩

/-- R260: the reset values meet the invariant, whatever stands in the fields that a later reset keeps or draws. -/
theorem inv_of_resetValues {p : Params} (hp : p.inRange) (epoch draws : Nat) (entropyIn : List (Option Bytes))
    (inputs : List Input) (replies : List Reply) :
    State.inv { State.reset with
      params := p, bufEpoch := epoch, draws := draws, entropyIn := entropyIn, inputs := inputs, replies := replies } :=
  have hmem : Memory.wf [] ∧ Memory.within [] p.bufSize := ⟨List.Pairwise.nil, List.forall_mem_nil _⟩
  ⟨hp, hmem, ⟨rfl, fun h => absurd rfl h, Nat.zero_le _, fun _ => rfl⟩, ⟨iff_of_true rfl rfl, fun _ => rfl⟩⟩

/-- Settles O49: the parameters at reset are in range, and the other reset values meet the invariant by themselves. -/
theorem invariantHoldsAtReset : Obligations.InvariantHoldsAtReset :=
  inv_of_resetValues paramsDefault_inRange 0 1 [] [] []

/-- R260 to R262: the reset input leads to a state that meets the invariant from any state with parameters in range. -/
theorem resetBlock_inv {s : State} (hp : s.params.inRange) : (resetBlock s).inv := inv_of_resetValues hp _ _ _ _ _

/-! ### What keeps each part of the invariant -/

/-- R43: a store inside the buffer keeps memory in order. -/
theorem memoryOk_of_store {s t : State} {a : Nat} {bs : Bytes} (h : s.memoryOk) (hp : t.params = s.params)
    (hb : t.buf = Memory.store s.buf a bs) (hr : a + bs.length ≤ s.params.bufSize) : t.memoryOk := by
  obtain ⟨hwf, hwithin⟩ := h
  rw [State.memoryOk, hp, hb]
  exact ⟨Memory.store_wf _ _ _ hwf, Memory.store_within _ _ _ _ hwithin hr⟩

/-- What keeps the buffer keeps memory in order. -/
theorem memoryOk_of_buf_eq {s t : State} (h : s.memoryOk) (hp : t.params = s.params) (hb : t.buf = s.buf) :
    t.memoryOk := by
  rw [State.memoryOk, hp, hb]
  exact h

/-- R39: what keeps the slot keeps it in order. -/
theorem slotOk_of_cipher_eq {s t : State} (h : s.slotOk) (hc : t.cipher = s.cipher) : t.slotOk := by
  rw [State.slotOk, hc]
  exact h

/-- R39: a valid slot with an origin is in order. -/
theorem slotOk_of_valid {t : State} (hv : t.cipher.valid = true) (ho : t.cipher.origin ≠ .none) : t.slotOk := by
  simp [State.slotOk, hv, ho]

/-- R39: the origin of a valid slot in order. -/
theorem origin_ne_none_of_valid {s : State} (h : s.slotOk) (hv : s.cipher.valid = true) : s.cipher.origin ≠ .none := by
  obtain ⟨hiff, _⟩ := h
  intro ho
  simp [hiff.2 ho] at hv

/-- The invariant of a state that differs from one that meets it at most in the operand and grid registers, the bus
fault, the word in flight with `DONE`, and what stands outside the block. -/
theorem inv_of_eq {s t : State} (h : s.inv) (hp : t.params = s.params) (hm : t.memoryOk) (hc : t.cipher = s.cipher)
    (he : t.err = s.err) (hcause : t.cause = s.cause) (hl : t.resultLen = s.resultLen)
    (hbusy : t.busy = true → t.done = false) : t.inv := by
  obtain ⟨hparams, -, ⟨hlegal, hzero, hle, -⟩, hslot⟩ := h
  refine ⟨hp ▸ hparams, hm, ⟨?_, ?_, ?_, hbusy⟩, slotOk_of_cipher_eq hslot hc⟩
  · rw [he, hcause]
    exact hlegal
  · rw [he, hl]
    exact hzero
  · rw [hl, hp]
    exact hle

/-! ### The engine's step -/

/-- R236: an error whose cause goes with it (R221), with no other effect, keeps the invariant. -/
theorem afterError_inv {s : State} {e : ErrCode} {c : Cause} (h : s.inv) (hl : legalStatus e c = true) :
    (s.afterError e c).inv := by
  obtain ⟨hparams, hmem, -, hslot⟩ := h
  exact ⟨hparams, hmem, ⟨hl, fun _ => rfl, Nat.zero_le _, fun hbusy => absurd hbusy Bool.false_ne_true⟩, hslot⟩

/-- R96, R221: the cause of a rejected word goes with `ILLEGAL_COMMAND`. -/
theorem illegalCause_legal (why : Illegal) : legalStatus .illegalCommand (illegalCause why) = true := by
  cases why <;> rfl

/-- A body that ends with an error keeps the invariant: a havoc stays inside the buffer (R232, R234). -/
theorem BodyFailed.inv {i : Instr} {s t : State} (hb : BodyFailed i s t) (h : s.inv) (hp : t.params = s.params)
    (hout : ∀ m, outMax i s = some m → s.dst + m ≤ s.params.bufSize) : t.inv := by
  obtain ⟨hparams, hmem, -, hslot⟩ := h
  obtain ⟨hidle, -, -, -, hlen⟩ := hb.status
  refine ⟨hp ▸ hparams, ?_, ⟨hb.legal, fun _ => hlen, by simp [hlen], by simp [State.busy, hidle]⟩,
    slotOk_of_cipher_eq hslot hb.cipher⟩
  rcases hb.buffer with ⟨-, hbuf⟩ | ⟨m, bs, hm, hlen, hbuf, -, -⟩
  · exact memoryOk_of_buf_eq hmem hp hbuf
  · exact memoryOk_of_store hmem hp hbuf (hlen ▸ hout m hm)

/-- The slot is in order after a body that ends without error (R39, R164, R180). -/
theorem BodySucceeded.slotOk {i : Instr} {s t : State} (hb : BodySucceeded i s t) (h : s.slotOk) : t.slotOk := by
  rcases hb.cipher with hc | ⟨o, ho, hv, horigin, -⟩ | ⟨-, hv, hc⟩
  · exact slotOk_of_cipher_eq h hc
  · refine slotOk_of_valid hv ?_
    rw [horigin]
    rintro rfl
    simp at ho
  · exact slotOk_of_valid (by rw [hc]; exact hv) (by rw [hc]; exact origin_ne_none_of_valid h hv)

/-- A body that ends without error stores and reports no more bytes than the buffer holds (R232, R237). -/
theorem BodySucceeded.memory_and_length {i : Instr} {s t : State} (hb : BodySucceeded i s t) (h : s.memoryOk)
    (hp : t.params = s.params) (hout : ∀ m, outMax i s = some m → s.dst + m ≤ s.params.bufSize) :
    t.memoryOk ∧ t.resultLen.toNat ≤ t.params.bufSize := by
  rw [hp]
  rcases hb.buffer with ⟨hbuf, hlen⟩ | ⟨m, bs, hm, hle, hbuf, hlen⟩
  · exact ⟨memoryOk_of_buf_eq h hp hbuf, by simp [hlen]⟩
  · have hfit := hout m hm
    refine ⟨memoryOk_of_store h hp hbuf (by omega), ?_⟩
    rw [hlen, BitVec.toNat_ofNat]
    have := Nat.mod_le bs.length (2 ^ 32)
    omega

/-- Every command keeps the invariant, however it ends. -/
theorem exec_inv {i : Instr} {s t : State} (h : s.inv) (he : exec i s = .next t) : t.inv := by
  obtain ⟨-, ⟨hp, -⟩, hidle, -⟩ := exec_frame he
  rcases exec_cases he with ⟨e, c, hr, rfl⟩ | ⟨hr, rfl⟩
  · obtain ⟨hlegal, -⟩ := registerError_legal hr
    rw [raiseError_eq]
    exact afterError_inv h hlegal
  · have hout : ∀ m, outMax i s = some m → s.dst + m ≤ s.params.bufSize := fun m => outMax_within hr
    rcases commandBody_ends i s hr with ⟨-, hb⟩ | ⟨hok, hb⟩
    · exact hb.inv h hp hout
    · obtain ⟨hparams, hmem, -, hslot⟩ := h
      obtain ⟨hmem', hlen⟩ := hb.memory_and_length hmem hp hout
      refine ⟨hp ▸ hparams, hmem', ⟨?_, fun herr => absurd hok herr, hlen, by simp [State.busy, hidle]⟩,
        hb.slotOk hslot⟩
      rw [hok, hb.cause]
      rfl

/-! ### An input's step -/

/-- R27, R44: a register write on an idle block leaves no command both in flight and done. -/
theorem writeRegister_done_of_busy {s : State} (hi : s.inflight = none) (o : Nat) (v : Word) :
    (writeRegister o v s).busy = true → (writeRegister o v s).done = false := by
  unfold writeRegister
  split
  · exact fun _ => rfl
  all_goals simp [State.busy, hi]

/-- R47: a register write on an idle block keeps the invariant. -/
theorem writeRegister_inv {s : State} (h : s.inv) (hi : s.inflight = none) (o : Nat) (v : Word) :
    (writeRegister o v s).inv := by
  obtain ⟨hp, hc, hbuf, he, hcause, hl, -⟩ := writeRegister_frame o v s
  have ⟨_, hmem, _⟩ := h
  exact inv_of_eq h hp (memoryOk_of_buf_eq hmem hp hbuf) hc he hcause hl (writeRegister_done_of_busy hi o v)

/-- R43, R63: a write of the window inside the buffer keeps the invariant. -/
theorem writeWindow_inv {s : State} (h : s.inv) {a : Nat} {width : Width} (v : Word)
    (hr : a + width.bytes ≤ s.params.bufSize) : (writeWindow a width v s).inv := by
  have ⟨_, hmem, ⟨_, _, _, hbusy⟩, _⟩ := h
  exact inv_of_eq h rfl (memoryOk_of_store hmem rfl rfl (by simpa using hr)) rfl rfl rfl rfl hbusy

/-- Every input keeps the invariant, those that come before the engine's step included (R71). -/
theorem performInput_inv {s : State} (h : s.inv) (hb : s.inflight = none ∨ hostGoesFirst s = true) :
    (performInput s).inv := by
  rcases performInput_cases s hb with
    heq | ⟨rest, -, heq⟩ | ⟨rest, replies, f, heq, -⟩ | ⟨width, o, v, rest, hi, -, ⟨r, -, heq⟩ | ⟨a, ha, heq⟩⟩
  all_goals rw [heq]
  · exact h
  · obtain ⟨hparams, -⟩ := h
    exact resetBlock_inv hparams
  · exact h
  · exact writeRegister_inv (s := { s with inputs := rest }) h hi r v
  · exact writeWindow_inv (s := { s with inputs := rest }) h v (accessTarget_buffer_within ha)

/-- Settles O48: by what a step can be, an input, a command or the rejection of a word, each of which keeps the
invariant. -/
theorem invariantKeptByEveryStep : Obligations.InvariantKeptByEveryStep := by
  intro s t h hstep
  rcases step_cases hstep with ⟨hi, rfl⟩ | ⟨w, -, hf, rfl⟩ | ⟨w, i, -, -, he⟩ | ⟨w, why, -, -, rfl⟩
  · exact performInput_inv h (.inl hi)
  · exact performInput_inv h (.inr hf)
  · exact exec_inv h he
  · exact afterError_inv h (illegalCause_legal why)

end Sys2Proof.Machine
end

section
/-! PROOFS. The register block on the bus (R24 to R29, R39, R44, R47): the fields of the words it reads, what a write of
each register does, and a read of `STATUS` while a command is in flight. -/

namespace Sys2Proof.Machine

/-! ### The fields of the register words -/

/-- R28, R221: `STATUS` is the sum of its four fields at their bits. -/
theorem statusWord_toNat (s : State) :
    (statusWord s).toNat = s.busy.toNat + 2 * s.done.toNat + 256 * s.err.code.toNat + 4096 * s.cause.code.toNat := by
  have herr := s.err.code.isLt
  have hcause := s.cause.code.isLt
  have hbusy := s.busy.toNat_lt
  have hdone := s.done.toNat_lt
  simp only [statusWord, fieldAt, BitVec.toNat_ofNat, BitVec.toNat_ofBool]
  omega

/-- R39: `CIPHER_STATUS` is the sum of its three fields at their bits. -/
theorem cipherStatusWord_toNat (s : State) :
    (cipherStatusWord s).toNat
      = s.cipher.valid.toNat + 2 * s.cipher.origin.code.toNat + 256 * s.cipher.encCount.toNat := by
  have horigin := s.cipher.origin.code.isLt
  have hcount := s.cipher.encCount.isLt
  have hvalid := s.cipher.valid.toNat_lt
  simp only [cipherStatusWord, fieldAt, BitVec.toNat_ofNat, BitVec.toNat_ofBool]
  omega

/-- R25: `CONFIG1` is the sum of its three fields at their bits. -/
theorem config1Word_toNat (p : Params) :
    (config1Word p).toNat = 65536 * p.fillerCheck.toNat + 0x2C * 256 + p.tagLen % 256 := by
  have hcheck := p.fillerCheck.toNat_lt
  simp only [config1Word, fieldAt, BitVec.toNat_ofNat, BitVec.toNat_ofBool, Config.artifactBytes]
  omega

/-- A flag as the number it adds to a word. -/
theorem mul_toNat_eq_ite (n : Nat) (b : Bool) : n * b.toNat = if b then n else 0 := by
  cases b <;> simp

/-- Bits `lo` to `lo + n - 1` of a word that are all 0 read 0 under their mask. -/
theorem and_mask_eq_zero {x : Word} {lo n : Nat} (h : x.toNat / 2 ^ lo % 2 ^ n = 0) :
    x &&& BitVec.ofNat 32 ((2 ^ n - 1) * 2 ^ lo) = 0 := by
  refine BitVec.eq_of_getLsbD_eq fun i hi => ?_
  have hbit := congrArg (fun k => k.testBit (i - lo)) h
  simp only [Nat.testBit_mod_two_pow, Nat.testBit_div_two_pow, Nat.zero_testBit] at hbit
  simp only [BitVec.getLsbD_and, BitVec.getLsbD_ofNat, Nat.testBit_mul_two_pow, Nat.testBit_two_pow_sub_one]
  by_cases hlo : lo ≤ i
  · rw [Nat.sub_add_cancel hlo] at hbit
    rcases Bool.and_eq_false_iff.1 hbit with hn | hx
    · simp [hn]
    · simp [BitVec.getLsbD, hx]
  · simp [hlo]

/-- R25: the reserved bits of `CONFIG1`, [31:17], read 0. -/
theorem config1Word_reserved (p : Params) : config1Word p &&& 0xFFFE0000 = 0 := by
  have hcheck := p.fillerCheck.toNat_lt
  have hfields := config1Word_toNat p
  exact and_mask_eq_zero (lo := 17) (n := 15) (by omega)

/-- R28: the reserved bits of `STATUS`, [31:16] and [7:2], read 0. -/
theorem statusWord_reserved (s : State) : statusWord s &&& 0xFFFF00FC = 0 := by
  have herr := s.err.code.isLt
  have hcause := s.cause.code.isLt
  have hbusy := s.busy.toNat_lt
  have hdone := s.done.toNat_lt
  have hfields := statusWord_toNat s
  have hmask : (0xFFFF00FC : Word)
      = BitVec.ofNat 32 ((2 ^ 16 - 1) * 2 ^ 16) ||| BitVec.ofNat 32 ((2 ^ 6 - 1) * 2 ^ 2) := by decide
  rw [hmask, BitVec.and_or_distrib_left, and_mask_eq_zero (by omega), and_mask_eq_zero (by omega)]
  rfl

/-- R39: the reserved bits of `CIPHER_STATUS`, [31:16] and [7:3], read 0. -/
theorem cipherStatusWord_reserved (s : State) : cipherStatusWord s &&& 0xFFFF00F8 = 0 := by
  have horigin := s.cipher.origin.code.isLt
  have hcount := s.cipher.encCount.isLt
  have hvalid := s.cipher.valid.toNat_lt
  have hfields := cipherStatusWord_toNat s
  have hmask : (0xFFFF00F8 : Word)
      = BitVec.ofNat 32 ((2 ^ 16 - 1) * 2 ^ 16) ||| BitVec.ofNat 32 ((2 ^ 5 - 1) * 2 ^ 3) := by decide
  rw [hmask, BitVec.and_or_distrib_left, and_mask_eq_zero (by omega), and_mask_eq_zero (by omega)]
  rfl

/-! ### Accesses to the register block -/

/-- R47, R64: an access to the register block that is not an aligned 32-bit one reaches nothing. -/
theorem accessTarget_register_none {p : Params} {width : Width} {o : Nat} (h : o < registerEnd)
    (hbad : width ≠ .w32 ∨ o % 4 ≠ 0) : accessTarget p width o = none := by
  rw [accessTarget, if_pos h, if_neg (by tauto)]

/-- With no command in flight, a read of a register answers its word and changes nothing else (R47, R68). -/
theorem step_of_registerRead {s : State} {rest : List Input} {o : BitVec 21} {v : Word}
    (h : s.inputNext (.bus (.read .w32 o)) rest) (ho : o.toNat < registerEnd) (h4 : o.toNat % 4 = 0)
    (hv : readRegister s o.toNat = v) :
    step s = .next { s with inputs := rest, replies := .data v :: s.replies } := by
  obtain ⟨hidle, hin⟩ := h
  rw [step_of_idle hidle, performInput_bus hin, performAccess, performRead, accessTarget_register _ _ ho h4, ← hv]
  rfl

/-- With no command in flight, a write of a register is answered and has the effect of that register (R47, R68). -/
theorem step_of_registerWrite {s : State} {rest : List Input} {o : BitVec 21} {v : Word}
    (h : s.inputNext (.bus (.write .w32 o v)) rest) (ho : o.toNat < registerEnd) (h4 : o.toNat % 4 = 0) :
    step s = .next (answer .done (writeRegister o.toNat v { s with inputs := rest })) := by
  obtain ⟨hidle, hin⟩ := h
  rw [step_of_idle hidle, performInput_bus hin, performAccess, performWrite, accessTarget_register _ _ ho h4]

/-- With no command in flight, an access that reaches nothing is a bus error (R64, log 8). -/
theorem step_of_busError {s : State} {rest : List Input} {width : Width} {o : BitVec 21} {v : Word}
    (h : s.inputNext (.bus (.read width o)) rest ∨ s.inputNext (.bus (.write width o v)) rest)
    (ht : accessTarget s.params width o.toNat = none) :
    step s = .next { s with inputs := rest, busFault := true, replies := .busError :: s.replies } := by
  rcases h with ⟨hidle, hin⟩ | ⟨hidle, hin⟩
  · rw [step_of_idle hidle, performInput_bus hin, performAccess, performRead, ht]
    rfl
  · rw [step_of_idle hidle, performInput_bus hin, performAccess, performWrite, ht]
    rfl

/-- Settles O37: a read answers the register's word, and each word is the sum of its fields at their bits. -/
theorem registerReadsAnswer : Obligations.RegisterReadsAnswer := by
  rintro s rest o v hin ⟨-, hsize, -, htag, -⟩ h
  have hidle : s.busy = false := by
    obtain ⟨hi, -⟩ := hin
    rw [State.busy, hi]
    rfl
  rcases h with ⟨rfl, rfl⟩ | ⟨rfl, hv⟩ | ⟨rfl, hv⟩ | ⟨rfl, rfl⟩ | ⟨rfl, hv⟩ | ⟨rfl, rfl⟩ | ⟨rfl, rfl⟩ | ⟨rfl, rfl⟩ |
    ⟨rfl, rfl⟩ | ⟨rfl, rfl⟩ | ⟨rfl, rfl⟩ | ⟨rfl, hv⟩
  all_goals refine step_of_registerRead hin (by decide) (by decide) ?_
  · rfl
  · have hcheck := mul_toNat_eq_ite 65536 s.params.fillerCheck
    have hfields := config1Word_toNat s.params
    exact BitVec.eq_of_toNat_eq (x := config1Word s.params) (by omega)
  · refine BitVec.eq_of_toNat_eq (x := bufSizeWord s.params) ?_
    simp only [bufSizeWord, BitVec.toNat_ofNat, Config.bufSizeMax] at *
    omega
  · rfl
  · have hdone := mul_toNat_eq_ite 2 s.done
    have hfields := statusWord_toNat s
    rw [hidle, Bool.toNat_false] at hfields
    exact BitVec.eq_of_toNat_eq (x := statusWord s) (by omega)
  · rfl
  · rfl
  · rfl
  · rfl
  · rfl
  · rfl
  · have hvalid := mul_toNat_eq_ite 1 s.cipher.valid
    have hfields := cipherStatusWord_toNat s
    exact BitVec.eq_of_toNat_eq (x := cipherStatusWord s) (by omega)

/-- Settles O38: each write is the effect of its register, and each word with reserved bits reads 0 under their mask. -/
theorem registerAccessRules : Obligations.RegisterAccessRules := by
  intro s rest v
  refine ⟨fun o ho hin => ?_, fun hin => step_of_registerWrite hin (by decide) (by decide),
    fun hin => step_of_registerWrite hin (by decide) (by decide),
    fun hin => step_of_registerWrite hin (by decide) (by decide),
    fun hin => step_of_registerWrite hin (by decide) (by decide),
    fun hin => step_of_registerWrite hin (by decide) (by decide),
    fun hin => step_of_registerRead hin (by decide) (by decide) rfl,
    fun o reserved ho hin => ?_,
    fun width o ho hbad hin => step_of_busError hin (accessTarget_register_none ho hbad)⟩
  · simp only [List.mem_cons, List.not_mem_nil, or_false] at ho
    rcases ho with rfl | rfl | rfl | rfl | rfl | rfl <;>
      exact step_of_registerWrite hin (by decide) (by decide)
  · simp only [List.mem_cons, Prod.mk.injEq, List.not_mem_nil, or_false] at ho
    rcases ho with ⟨rfl, rfl⟩ | ⟨rfl, rfl⟩ | ⟨rfl, rfl⟩
    · exact ⟨_, step_of_registerRead hin (by decide) (by decide) rfl, config1Word_reserved s.params⟩
    · exact ⟨_, step_of_registerRead hin (by decide) (by decide) rfl, statusWord_reserved s⟩
    · exact ⟨_, step_of_registerRead hin (by decide) (by decide) rfl, cipherStatusWord_reserved s⟩

/-- Settles O39: the write of the register at offset 0x00C is `startCommand`. -/
theorem cmdWriteStartsCommand : Obligations.CmdWriteStartsCommand := by
  intro s rest w hin
  exact ⟨_, step_of_registerWrite hin (by decide) (by decide), rfl, rfl, rfl, rfl, rfl, rfl, ⟨rfl, rfl, rfl⟩,
    ⟨rfl, rfl⟩, rfl, fun _ => rfl, rfl, rfl, rfl, rfl⟩

/-- Settles O44: the read is one of those that may come first, and it answers the status word of the state it finds. -/
theorem statusReadPassesWhileBusy : Obligations.StatusReadPassesWhileBusy := by
  intro s w rest hi hdone hpoll hin
  have hin' : s.inputs = .bus statusRead :: rest := hin
  have hfirst : hostGoesFirst s = true := by
    simp [hostGoesFirst, hin', Input.passesBusy, Nat.ne_of_gt hpoll]
  refine ⟨statusWord s, ?_, ?_⟩
  · rw [statusWord_toNat, State.busy, hi, hdone]
    rfl
  · rw [step_of_hostFirst hi hfirst, performInput_bus hin', performAccess_statusRead]
    rfl

end Sys2Proof.Machine
end

section
/-! PROOFS. What writes each part of the state (R31, R37, R38, R40 to R42, R48): everything a step can do, and from it
the only writers of the cipher slot, the grid registers, the error fields and the bus fault. -/

namespace Sys2Proof.Machine

/-! ### Everything a step can do -/

/-- The reset input is performed with no command in flight, or before the engine's step (log 20). -/
theorem resetNext_iff {s : State} :
    s.resetNext ↔ (∃ rest, s.inputs = .reset :: rest) ∧ (s.inflight = none ∨ hostGoesFirst s = true) := by
  cases h : s.inputs with
  | nil => simp [State.resetNext, h]
  | cons i rest =>
    simp only [State.resetNext, hostGoesFirst, h, List.head?_cons, Option.some.injEq, List.cons.injEq, exists_and_left,
      exists_eq', and_true]
    refine and_congr_right fun hi => ?_
    simp [hi, Input.passesBusy, Nat.pos_iff_ne_zero]

/-- A step answers the host, with perhaps a bus error, or resets the block, or writes a register or the buffer window
for the host, or executes the word in flight. -/
theorem step_effects {s t : State} (h : step s = .next t) :
    (∃ inputs replies fault budget,
        t = { s with inputs := inputs, replies := replies, busFault := fault, pollBudget := budget }
          ∧ (s.busFault = true → fault = true))
      ∨ (s.resetNext ∧ ∃ rest budget, t = { resetBlock { s with inputs := rest } with pollBudget := budget })
      ∨ (∃ o v rest, s.inputNext (.bus (.write .w32 o v)) rest
          ∧ t = answer .done (writeRegister o.toNat v { s with inputs := rest }))
      ∨ (∃ a width v rest, t = answer .done (writeWindow a width v { s with inputs := rest }))
      ∨ ∃ w, s.engineNext w := by
  rcases step_cases h with ⟨hi, rfl⟩ | ⟨w, hi, hf, rfl⟩ | ⟨w, i, hw, -⟩ | ⟨w, why, hw, -⟩
  · rcases performInput_cases s (.inl hi) with heq | ⟨rest, hin, heq⟩ | ⟨rest, replies, fault, heq, hs⟩ |
      ⟨width, o, v, rest, -, hin, ⟨r, hr, heq⟩ | ⟨a, -, heq⟩⟩ <;> rw [heq]
    · exact .inl ⟨_, _, _, _, rfl, id⟩
    · exact .inr (.inl ⟨resetNext_iff.2 ⟨⟨rest, hin⟩, .inl hi⟩, rest, _, rfl⟩)
    · exact .inl ⟨rest, replies, fault, _, rfl, hs⟩
    · obtain ⟨rfl, -, -, rfl⟩ := accessTarget_register_eq hr
      exact .inr (.inr (.inl ⟨o, v, rest, ⟨hi, hin⟩, rfl⟩))
    · exact .inr (.inr (.inr (.inl ⟨a, width, v, rest, rfl⟩)))
  · rcases performInput_cases s (.inr hf) with heq | ⟨rest, hin, heq⟩ | ⟨rest, replies, fault, heq, hs⟩ |
      ⟨width, o, v, rest, hidle, -⟩
    · exact .inl ⟨_, _, _, _, by rw [heq], id⟩
    · exact .inr (.inl ⟨resetNext_iff.2 ⟨⟨rest, hin⟩, .inr hf⟩, rest, _, by rw [heq]⟩)
    · exact .inl ⟨rest, replies, fault, _, by rw [heq], hs⟩
    · simp [hidle] at hi
  · exact .inr (.inr (.inr (.inr ⟨w, hw⟩)))
  · exact .inr (.inr (.inr (.inr ⟨w, hw⟩)))

/-- A step in which the reset input is performed resets the block. -/
theorem step_of_resetNext {s t : State} (hr : s.resetNext) (h : step s = .next t) :
    ∃ rest budget, t = { resetBlock { s with inputs := rest } with pollBudget := budget } := by
  obtain ⟨⟨rest, hin⟩, hb⟩ := resetNext_iff.1 hr
  rcases step_cases h with ⟨-, rfl⟩ | ⟨w, -, -, rfl⟩ | ⟨w, i, ⟨hi, hf⟩, -⟩ | ⟨w, why, ⟨hi, hf⟩, -⟩
  · exact ⟨rest, _, by rw [performInput_reset hin]⟩
  · exact ⟨rest, _, by rw [performInput_reset hin]⟩
  · simp [hi, hf] at hb
  · simp [hi, hf] at hb

/-- The engine's step executes a command, or rejects a word that is none (R72, R96). -/
theorem engine_step_cases {s t : State} {w : Word} (hw : s.engineNext w) (h : step s = .next t) :
    (∃ i, decodeWord w = .ok i ∧ exec i s = .next t)
      ∨ (∃ why, decodeWord w = .error why ∧ t = s.afterError .illegalCommand (illegalCause why)) := by
  cases hd : decodeWord w with
  | ok i => exact .inl ⟨i, rfl, by rw [← step_of_engine hw hd, h]⟩
  | error why =>
    rw [step_of_illegal hw hd] at h
    cases h
    exact .inr ⟨why, rfl, rfl⟩

/-- A command that ended without error has passed the checks of its registers and run its body (R230). -/
theorem exec_of_err_ok {i : Instr} {s t : State} (h : exec i s = .next t) (hok : t.err = .ok) :
    registerError i s = none ∧ t = commandBody i s := by
  rcases exec_cases h with ⟨e, c, hr, rfl⟩ | hbody
  · obtain ⟨-, he⟩ := registerError_legal hr
    rw [raiseError_err] at hok
    simp [hok] at he
  · exact hbody

/-- A command ends with an error and leaves the cipher slot and the grid registers alone, or ends without error. -/
theorem exec_ends {i : Instr} {s t : State} (h : exec i s = .next t) :
    (t.err ≠ .ok ∧ t.cipher = s.cipher ∧ sameGrid s t) ∨ (t.err = .ok ∧ BodySucceeded i s t) := by
  rcases exec_cases h with ⟨e, c, hr, rfl⟩ | ⟨hr, rfl⟩
  · refine .inl ⟨fun hok => ?_, rfl, rfl, rfl⟩
    obtain ⟨hnone, -⟩ := exec_of_err_ok h hok
    simp [hnone] at hr
  · rcases commandBody_ends i s hr with ⟨herr, hb⟩ | hsucc
    · exact .inl ⟨herr, hb.cipher, hb.grid⟩
    · exact .inr hsucc

/-! ### The bus fault and the error fields -/

/-- Settles O53: an answer keeps it, and no register write, window write or command touches it. -/
theorem busFaultIsSticky : Obligations.BusFaultIsSticky := by
  intro s t h hs
  rcases step_effects h with ⟨_, _, _, _, rfl, hf⟩ | ⟨hr, -⟩ | ⟨o, v, rest, -, rfl⟩ | ⟨_, _, _, _, rfl⟩ | ⟨w, hw⟩
  · exact .inl (hf hs)
  · exact .inr hr
  · obtain ⟨-, -, -, -, -, -, hbus, -⟩ := writeRegister_frame o.toNat v { s with inputs := rest }
    exact .inl (hbus.trans hs)
  · exact .inl hs
  · rcases engine_step_cases hw h with ⟨i, -, he⟩ | ⟨why, -, rfl⟩
    · obtain ⟨-, ⟨-, hbus, -⟩, -⟩ := exec_frame he
      exact .inl (hbus.trans hs)
    · exact .inl hs

/-- The engine's step completes the word in flight, and where it leaves no error it leaves no cause (R31, R72). -/
theorem engine_step_completes {s t : State} {w : Word} (hw : s.engineNext w) (h : step s = .next t) :
    t.inflight = none ∧ t.done = true ∧ (t.err = .ok → t.cause = .none) := by
  rcases engine_step_cases hw h with ⟨i, -, he⟩ | ⟨why, -, rfl⟩
  · obtain ⟨-, -, hinflight, hdone⟩ := exec_frame he
    refine ⟨hinflight, hdone, fun hok => ?_⟩
    rcases exec_ends he with ⟨herr, -⟩ | ⟨-, hb⟩
    · exact absurd hok herr
    · exact hb.cause
  · exact ⟨rfl, rfl, fun hok => ErrCode.noConfusion hok⟩

/-- The engine's step is the same whatever the last command left in `ERR` and `CAUSE` (R31). -/
theorem engine_step_withStatus {s : State} {w : Word} (hw : s.engineNext w) (e : ErrCode) (c : Cause) :
    step (s.withStatus e c) = step s := by
  have hw' : (s.withStatus e c).engineNext w := hw
  cases hd : decodeWord w with
  | ok i => rw [step_of_engine hw' hd, step_of_engine hw hd, exec_withStatus]
  | error why =>
    rw [step_of_illegal hw' hd, step_of_illegal hw hd]
    rfl

/-- Settles O52: no host access touches the two fields, and the engine's step does not read them. -/
theorem errorFieldsWrittenOnlyAtCompletion : Obligations.ErrorFieldsWrittenOnlyAtCompletion := by
  intro s t h
  refine ⟨?_, fun w e c hw => ?_⟩
  · rcases step_effects h with ⟨_, _, _, _, rfl, -⟩ | ⟨hr, _, _, rfl⟩ | ⟨o, v, rest, -, rfl⟩ | ⟨_, _, _, _, rfl⟩ |
      ⟨w, hw⟩
    · exact .inl ⟨rfl, rfl⟩
    · exact .inr (.inl ⟨hr, rfl, rfl⟩)
    · obtain ⟨-, -, -, herr, hcause, -⟩ := writeRegister_frame o.toNat v { s with inputs := rest }
      exact .inl ⟨herr, hcause⟩
    · exact .inl ⟨rfl, rfl⟩
    · exact .inr (.inr ⟨⟨w, hw⟩, engine_step_completes hw h⟩)
  · obtain ⟨-, -, hcause⟩ := engine_step_completes hw h
    exact ⟨(engine_step_withStatus hw e c).trans h, hcause⟩

/-! ### The grid registers -/

/-- A register write changes at most one grid register, and that by a write of its own offset (R37, R38, R47). -/
theorem writeRegister_grid (o : Nat) (v : Word) (s : State) :
    sameGrid s (writeRegister o v s)
      ∨ (o = offGridW ∧ (writeRegister o v s).gridW = v ∧ (writeRegister o v s).gridH = s.gridH)
      ∨ (o = offGridH ∧ (writeRegister o v s).gridH = v ∧ (writeRegister o v s).gridW = s.gridW) := by
  unfold writeRegister
  split
  case h_5 => exact .inr (.inl ⟨rfl, rfl, rfl⟩)
  case h_6 => exact .inr (.inr ⟨rfl, rfl, rfl⟩)
  all_goals exact .inl ⟨rfl, rfl⟩

/-- `ENCODE` leaves the image width and the row count in the grid registers (R141, R143). -/
theorem encodeBody_grid (s : State) : (encodeBody s).gridW = 85 ∧ (encodeBody s).gridH.toNat = s.len / 255 + 1 := by
  have hlen : s.len < 2 ^ 32 := s.srcLen.isLt
  refine ⟨rfl, ?_⟩
  simp only [encodeBody, finishCommand_gridH, rowCount, Config.blockSize, BitVec.toNat_ofNat]
  omega

/-- Settles O51: of the host's writes those of the two offsets, and of the commands `ENCODE`. -/
theorem gridRegistersWrittenOnlyAsStated : Obligations.GridRegistersWrittenOnlyAsStated := by
  intro s t h
  refine ⟨?_, fun w hw hd hok => ?_⟩
  · rcases step_effects h with ⟨_, _, _, _, rfl, -⟩ | ⟨hr, _, _, rfl⟩ | ⟨o, v, rest, hin, rfl⟩ | ⟨_, _, _, _, rfl⟩ |
      ⟨w, hw⟩
    · exact .inl ⟨rfl, rfl⟩
    · exact .inr (.inl ⟨hr, rfl, rfl⟩)
    · rcases writeRegister_grid o.toNat v { s with inputs := rest } with hg | ⟨ho, hw, hh⟩ | ⟨ho, hh, hw⟩
      · exact .inl hg
      · obtain rfl : o = 0x024 := BitVec.eq_of_toNat_eq ho
        exact .inr (.inr (.inr (.inl ⟨v, rest, hin, hw, hh⟩)))
      · obtain rfl : o = 0x028 := BitVec.eq_of_toNat_eq ho
        exact .inr (.inr (.inr (.inr ⟨v, rest, hin, hh, hw⟩)))
    · exact .inl ⟨rfl, rfl⟩
    · rcases engine_step_cases hw h with ⟨i, hd, he⟩ | ⟨why, -, rfl⟩
      · rcases exec_ends he with ⟨-, -, hg⟩ | ⟨hok, hb⟩
        · exact .inl hg
        · rcases hb.grid with hg | ⟨rfl, hg⟩
          · exact .inl hg
          · exact .inr (.inr (.inl ⟨w, hw, hd, hok, hg⟩))
      · exact .inl ⟨rfl, rfl⟩
  · rw [step_of_engine hw hd] at h
    obtain ⟨-, rfl⟩ := exec_of_err_ok h hok
    exact encodeBody_grid s

end Sys2Proof.Machine
end

section
/-! PROOFS. The cipher slot (R40 to R42, R164 to R167, R180): its key and nonce are out of the host's reach, and only a
reset, a construction that succeeds and a counted `ENCRYPT` write it. -/

namespace Sys2Proof.Machine

/-! ### The key and the nonce on the bus -/

/-- `s` with another key and nonce in the cipher slot. -/
abbrev State.withKey (s : State) (key : Vector Byte 32) (nonce : Vector Byte 12) : State :=
  { s with cipher := { s.cipher with key := key, nonce := nonce } }

section
variable (s : State) (key : Vector Byte 32) (nonce : Vector Byte 12)

/-- No register shows the key or the nonce (R40, R41). -/
theorem readRegister_withKey (o : Nat) : readRegister (s.withKey key nonce) o = readRegister s o := rfl

/-- No register write depends on the key or the nonce, or changes them. -/
theorem writeRegister_withKey (o : Nat) (v : Word) :
    writeRegister o v (s.withKey key nonce) = (writeRegister o v s).withKey key nonce := by
  unfold writeRegister
  split <;> rfl

theorem performRead_withKey (width : Width) (o : Nat) :
    performRead width o (s.withKey key nonce) = (performRead width o s).withKey key nonce := by
  simp only [performRead]
  rcases accessTarget s.params width o with _ | r | a <;> rfl

theorem performWrite_withKey (width : Width) (o : Nat) (v : Word) :
    performWrite width o v (s.withKey key nonce) = (performWrite width o v s).withKey key nonce := by
  simp only [performWrite]
  rcases accessTarget s.params width o with _ | r | a
  · rfl
  · exact congrArg (answer .done) (writeRegister_withKey s key nonce r v)
  · rfl

/-- A host access does the same and is answered the same whatever the key and the nonce are, and leaves them. -/
theorem performAccess_withKey (a : Access) :
    performAccess a (s.withKey key nonce) = (performAccess a s).withKey key nonce := by
  cases a with
  | read width o => exact performRead_withKey s key nonce width o.toNat
  | write width o v => exact performWrite_withKey s key nonce width o.toNat v

/-- So does every input but the reset, which zeroises them (R260). -/
theorem performInput_withKey (hr : s.inputs.head? ≠ some .reset) :
    performInput (s.withKey key nonce) = (performInput s).withKey key nonce := by
  have hin : (s.withKey key nonce).inputs = s.inputs := rfl
  match h : s.inputs with
  | [] => rw [performInput_nil h, performInput_nil (hin.trans h)]
  | .bus a :: rest =>
    rw [performInput_bus h, performInput_bus (hin.trans h)]
    exact performAccess_withKey { s with inputs := rest } key nonce a
  | .wait :: rest =>
    rw [performInput_wait h, performInput_wait (hin.trans h)]
    rfl
  | .stopOnError skip :: rest =>
    rw [performInput_stopOnError h, performInput_stopOnError (hin.trans h)]
    rfl
  | .sourceFromResult tmp :: rest =>
    rw [performInput_sourceFromResult h, performInput_sourceFromResult (hin.trans h)]
  | .reset :: rest => simp [h] at hr

end

/-- Settles O54: the step is an input's, and no input but the reset reads or writes the key and the nonce. -/
theorem keyIsNotOnTheBus : Obligations.KeyIsNotOnTheBus := by
  intro s t key nonce hi hr h
  rw [step_of_idle hi] at h
  cases h
  have hi' : (s.withKey key nonce).inflight = none := hi
  rw [step_of_idle hi', performInput_withKey s key nonce hr]

/-! ### What a construction leaves -/

/-- `s` with another cipher slot. -/
abbrev State.withCipher (s : State) (c : CipherSlot) : State := { s with cipher := c }

/-- A draw neither reads nor writes the cipher slot. -/
theorem drawEntropy_withCipher (n : Nat) (s : State) (c : CipherSlot) :
    drawEntropy n (s.withCipher c) = ((drawEntropy n s).1, (drawEntropy n s).2.withCipher c) := by
  simp only [drawEntropy]
  cases s.entropyIn <;> rfl

/-- R165: `GENERATE` with both draws answered. -/
theorem generateBody_of_draws {s : State} {key : Vector Byte 32} {nonce : Vector Byte 12}
    (hk : (drawEntropy 32 s).1 = some key) (hn : (drawEntropy 12 (drawEntropy 32 s).2).1 = some nonce) :
    generateBody s
      = finishCommand 0 (constructCipher .generated key nonce (drawEntropy 12 (drawEntropy 32 s).2).2) := by
  simp only [generateBody]
  rcases hd : drawEntropy 32 s with ⟨k, s1⟩
  rcases hd' : drawEntropy 12 s1 with ⟨n, s2⟩
  simp only [hd, hd'] at hk hn
  subst hk hn
  simp only [hd']

/-- R165: `GENERATE` ends without error only if both draws are answered. -/
theorem draws_of_generateBody_ok {s : State} (hok : (generateBody s).err = .ok) :
    ∃ key nonce, (drawEntropy 32 s).1 = some key ∧ (drawEntropy 12 (drawEntropy 32 s).2).1 = some nonce := by
  simp only [generateBody] at hok
  rcases hd : drawEntropy 32 s with ⟨_ | key, s1⟩
  · simp [hd] at hok
  · rcases hd' : drawEntropy 12 s1 with ⟨_ | nonce, s2⟩
    · simp [hd, hd'] at hok
    · exact ⟨key, nonce, rfl, rfl⟩

/-- R164: what a `GENERATE` that ends without error leaves does not depend on the old slot. -/
theorem generateBody_withCipher {s : State} (hok : (generateBody s).err = .ok) (old : CipherSlot) :
    generateBody (s.withCipher old) = generateBody s := by
  obtain ⟨key, nonce, hk, hn⟩ := draws_of_generateBody_ok hok
  rw [generateBody_of_draws hk hn, generateBody_of_draws (key := key) (nonce := nonce)]
  · simp only [drawEntropy_withCipher]
    rfl
  · rw [drawEntropy_withCipher, hk]
  · simp only [drawEntropy_withCipher, hn]

/-- R166: `FROM_KEY` with its draw answered. -/
theorem fromKeyBody_of_draw {s : State} {nonce : Vector Byte 12} (hn : (drawEntropy 12 s).1 = some nonce) :
    fromKeyBody s
      = finishCommand 0 (constructCipher .keyMaterial (memReadVector s s.src 32) nonce (drawEntropy 12 s).2) := by
  simp only [fromKeyBody]
  rcases hd : drawEntropy 12 s with ⟨n, s1⟩
  simp only [hd] at hn
  subst hn
  rfl

/-- R166: `FROM_KEY` ends without error only if its draw is answered. -/
theorem draw_of_fromKeyBody_ok {s : State} (hok : (fromKeyBody s).err = .ok) :
    ∃ nonce, (drawEntropy 12 s).1 = some nonce := by
  simp only [fromKeyBody] at hok
  rcases hd : drawEntropy 12 s with ⟨_ | nonce, s1⟩
  · simp [hd] at hok
  · exact ⟨nonce, rfl⟩

/-- R164: what a `FROM_KEY` that ends without error leaves does not depend on the old slot. -/
theorem fromKeyBody_withCipher {s : State} (hok : (fromKeyBody s).err = .ok) (old : CipherSlot) :
    fromKeyBody (s.withCipher old) = fromKeyBody s := by
  obtain ⟨nonce, hn⟩ := draw_of_fromKeyBody_ok hok
  rw [fromKeyBody_of_draw hn, fromKeyBody_of_draw (nonce := nonce)]
  · simp only [drawEntropy_withCipher]
    rfl
  · rw [drawEntropy_withCipher, hn]

/-- R164: what a construction with origin `o` leaves: the slot it constructs, whatever the old slot held. -/
structure Constructed (i : Instr) (o : Origin) (key : Vector Byte 32) (nonce : Vector Byte 12) (s t : State) :
    Prop where
  slot : t.cipher = { valid := true, origin := o, encCount := 0, key := key, nonce := nonce }
  anyOld : ∀ old, exec i (s.withCipher old) = .next t

/-- R164, R165: a `GENERATE` that ends without error constructs the slot from its two draws. -/
theorem generate_constructs {s t : State} (h : exec .generate s = .next t) (hok : t.err = .ok) :
    ∃ key nonce, (drawEntropy 32 s).1 = some key ∧ (drawEntropy 12 (drawEntropy 32 s).2).1 = some nonce
      ∧ Constructed .generate .generated key nonce s t := by
  obtain ⟨hr, rfl⟩ := exec_of_err_ok h hok
  obtain ⟨key, nonce, hk, hn⟩ := draws_of_generateBody_ok hok
  refine ⟨key, nonce, hk, hn, ?_, fun old => ?_⟩
  · exact congrArg State.cipher (generateBody_of_draws hk hn)
  · exact (exec_of_registers_ok (s := s.withCipher old) hr).trans (congrArg _ (generateBody_withCipher hok old))

/-- R164, R166: a `FROM_KEY` that ends without error constructs the slot from the source bytes and its draw. -/
theorem fromKey_constructs {s t : State} (h : exec .fromKey s = .next t) (hok : t.err = .ok) :
    ∃ nonce, (drawEntropy 12 s).1 = some nonce
      ∧ Constructed .fromKey .keyMaterial (memReadVector s s.src 32) nonce s t := by
  obtain ⟨hr, rfl⟩ := exec_of_err_ok h hok
  obtain ⟨nonce, hn⟩ := draw_of_fromKeyBody_ok hok
  refine ⟨nonce, hn, ?_, fun old => ?_⟩
  · exact congrArg State.cipher (fromKeyBody_of_draw hn)
  · exact (exec_of_registers_ok (s := s.withCipher old) hr).trans (congrArg _ (fromKeyBody_withCipher hok old))

/-- R164, R167: a `FROM_ARTIFACT` that ends without error constructs the slot from the source bytes. -/
theorem fromArtifact_constructs {s t : State} (h : exec .fromArtifact s = .next t) (hok : t.err = .ok) :
    Constructed .fromArtifact .artifact (memReadVector s s.src 32) (memReadVector s (s.src + 32) 12) s t := by
  obtain ⟨hr, rfl⟩ := exec_of_err_ok h hok
  exact ⟨rfl, fun old => exec_of_registers_ok (s := s.withCipher old) hr⟩

/-- R180: an `ENCRYPT` that ends without error found a valid cipher and changed only its count, by one up to 255. -/
theorem encrypt_counts {s t : State} (h : exec .encrypt s = .next t) (hok : t.err = .ok) :
    s.cipher.valid = true
      ∧ t.cipher = { s.cipher with encCount := BitVec.ofNat 8 (min (s.cipher.encCount.toNat + 1) 255) } := by
  obtain ⟨hr, rfl⟩ := exec_of_err_ok h hok
  obtain ⟨-, hcipher, -⟩ := registerError_eq_none.1 hr
  refine ⟨by simpa [cipherError] using hcipher, ?_⟩
  rw [← saturatingSucc_toNat, BitVec.ofNat_toNat, BitVec.setWidth_eq]
  simp only [commandBody, encryptBody] at hok ⊢
  cases hs : aeadSeal s.params.tagLen s.cipher.key s.cipher.nonce (memRead s s.src s.len) with
  | none => simp [hs] at hok
  | some ct => rfl

/-- Settles O50: no host access touches the slot; the writers among the commands are those of `BodySucceeded`. -/
theorem cipherSlotChangesOnlyAsStated : Obligations.CipherSlotChangesOnlyAsStated := by
  intro s t h
  refine ⟨?_, fun hr => ?_, fun w i o hw hd hok ho => ?_, fun w hw hd hok => ?_⟩
  · rcases step_effects h with ⟨_, _, _, _, rfl, -⟩ | ⟨hr, -⟩ | ⟨o, v, rest, -, rfl⟩ | ⟨_, _, _, _, rfl⟩ | ⟨w, hw⟩
    · exact .inl rfl
    · exact .inr (.inl hr)
    · obtain ⟨-, hcipher, -⟩ := writeRegister_frame o.toNat v { s with inputs := rest }
      exact .inl hcipher
    · exact .inl rfl
    · rcases engine_step_cases hw h with ⟨i, hd, he⟩ | ⟨why, -, rfl⟩
      · rcases exec_ends he with ⟨-, hc, -⟩ | ⟨hok, hb⟩
        · exact .inl hc
        · rcases hb.cipher with hc | ⟨o, ho, -⟩ | ⟨rfl, -⟩
          · exact .inl hc
          · exact .inr (.inr (.inl ⟨w, i, o, hw, hd, hok, ho⟩))
          · exact .inr (.inr (.inr ⟨w, hw, hd, hok⟩))
      · exact .inl rfl
  · obtain ⟨rest, budget, rfl⟩ := step_of_resetNext hr h
    rfl
  · have hstep : ∀ old : CipherSlot, step (s.withCipher old) = exec i (s.withCipher old) :=
      fun old => step_of_engine (s := s.withCipher old) hw hd
    rw [step_of_engine hw hd] at h
    simp only [List.mem_cons, Prod.mk.injEq, List.not_mem_nil, or_false] at ho
    rcases ho with ⟨rfl, rfl⟩ | ⟨rfl, rfl⟩ | ⟨rfl, rfl⟩
    · obtain ⟨key, nonce, hk, hn, hslot, hold⟩ := generate_constructs h hok
      rw [hslot]
      exact ⟨rfl, rfl, rfl, fun _ => ⟨hk, hn⟩, nofun, nofun, fun old => (hstep old).trans (hold old)⟩
    · obtain ⟨nonce, hn, hslot, hold⟩ := fromKey_constructs h hok
      rw [hslot]
      exact ⟨rfl, rfl, rfl, nofun, fun _ => ⟨memReadVector_toList .., hn⟩, nofun,
        fun old => (hstep old).trans (hold old)⟩
    · obtain ⟨hslot, hold⟩ := fromArtifact_constructs h hok
      rw [hslot]
      exact ⟨rfl, rfl, rfl, nofun, nofun, fun _ => ⟨memReadVector_toList .., memReadVector_toList ..⟩,
        fun old => (hstep old).trans (hold old)⟩
  · rw [step_of_engine hw hd] at h
    exact encrypt_counts h hok

end Sys2Proof.Machine
end

section
/-! PROOFS. The word in flight (R72, R241, R274): the engine executes the command it stands for and completes it, an
access that holds is still to come after that, and no host can put it off for ever. -/

namespace Sys2Proof

/-- R91: the fields of a command's word. -/
theorem encode_fields (i : Instr) :
    cmdOpcode (encode i) = i.opcode ∧ cmdN (encode i) = i.fieldN ∧ cmdReserved (encode i) = 0 :=
  Laws.Fields.fields_of_word i.fieldN i.opcode

/-- R90 to R96: the word of a well-formed command decodes to it. -/
theorem decodeWord_encode {i : Instr} (h : i.wellFormed = true) : decodeWord (encode i) = .ok i := by
  obtain ⟨hop, hn, hres⟩ := encode_fields i
  rw [decodeWord, hop, hn, hres]
  cases i with
  | pad n => exact if_neg (c := n = 0) (bne_iff_ne.1 h)
  | unpad n => exact if_neg (c := n = 0) (bne_iff_ne.1 h)
  | encode | decode | generate | fromKey | fromArtifact | exportArtifact | encrypt | decrypt => rfl

end Sys2Proof

namespace Sys2Proof.Machine

/-! ### The engine's step -/

/-- A latched word below 2^32 is in flight as it is, and the engine's step is next (R27, log 14). -/
theorem withFetchWord_engineNext (s : State) (w : Word) : (s.withFetchWord 32 w.toNat).engineNext w := by
  have hword : BitVec.ofNat 32 (w.toNat % 2 ^ 32) = w := by
    rw [Nat.mod_eq_of_lt w.isLt, BitVec.ofNat_toNat, BitVec.setWidth_eq]
  refine ⟨congrArg some hword, ?_⟩
  unfold hostGoesFirst
  split
  · rfl
  · exact Bool.and_false _

/-- Settles O5: a word that decodes is dispatched to `exec`, and the word of a well-formed command decodes to it. -/
theorem stepRunsDecodedCommand : Obligations.StepRunsDecodedCommand :=
  ⟨fun _ _ _ hw hd => step_of_engine hw hd,
    fun s i hi => step_of_engine (withFetchWord_engineNext s (encode i)) (decodeWord_encode hi)⟩

/-- The engine's step completes the word in flight and leaves the operands and all that stands outside the engine
alone (R72). -/
theorem engine_step_frame {s t : State} {w : Word} (hw : s.engineNext w) (h : step s = .next t) :
    t.inflight = none ∧ t.done = true ∧ sameOperands s t ∧ sameOutside s t := by
  rcases engine_step_cases hw h with ⟨i, -, he⟩ | ⟨why, -, rfl⟩
  · obtain ⟨hops, hout, hinflight, hdone⟩ := exec_frame he
    exact ⟨hinflight, hdone, hops, hout⟩
  · exact ⟨rfl, rfl, ⟨rfl, rfl, rfl⟩, ⟨rfl, rfl, rfl, rfl, rfl, rfl⟩⟩

/-- Settles O6: every step answers a next state, and the engine's is a command or a rejection, which both complete. -/
theorem engineStepCompletes : Obligations.EngineStepCompletes := by
  intro s w hw
  obtain ⟨t, ht⟩ := step_total s
  exact ⟨t, ht, engine_step_frame hw ht⟩

/-! ### The host while a command is in flight -/

/-- Settles O43: an access that is not a read of `STATUS` does not come first, so the step is the engine's, which
leaves the inputs and the replies alone. -/
theorem accessHoldsWhileBusy : Obligations.AccessHoldsWhileBusy := by
  intro s w a rest hi hin ha
  have hw : s.engineNext w := ⟨hi, Bool.eq_false_iff.2 fun hf => ha (hostGoesFirst_bus hin hf)⟩
  obtain ⟨t, ht⟩ := step_total s
  obtain ⟨hinflight, -, -, -, hbus, -, -, hinputs, hreplies⟩ := engine_step_frame hw ht
  exact ⟨t, ht, hinflight, hinputs.trans hin, hreplies, hbus⟩

/-- An input comes before the engine's step only while some of those that may are left (log 7). -/
theorem pollBudget_pos_of_hostGoesFirst {s : State} (hf : hostGoesFirst s = true) : 0 < s.pollBudget := by
  unfold hostGoesFirst at hf
  split at hf
  · exact absurd hf Bool.false_ne_true
  · obtain ⟨-, hpoll⟩ := Bool.and_eq_true_iff.1 hf
    exact Nat.pos_of_ne_zero (bne_iff_ne.1 hpoll)

/-- A step from a state with a command in flight ends it, or uses up one of the inputs that may come first. -/
theorem step_ends_or_uses_budget {s t : State} {w : Word} (hi : s.inflight = some w) (h : step s = .next t) :
    t.inflight = none ∨ (t.inflight = some w ∧ s.pollBudget = t.pollBudget + 1) := by
  cases hf : hostGoesFirst s with
  | false =>
    obtain ⟨hinflight, -⟩ := engine_step_frame ⟨hi, hf⟩ h
    exact .inl hinflight
  | true =>
    have hpos := pollBudget_pos_of_hostGoesFirst hf
    rw [step_of_hostFirst hi hf] at h
    cases h
    rcases performInput_cases s (.inr hf) with heq | ⟨rest, -, heq⟩ | ⟨rest, replies, fault, heq, -⟩ |
      ⟨width, o, v, rest, hidle, -⟩
    · rw [heq]
      exact .inr ⟨hi, (Nat.sub_add_cancel hpos).symm⟩
    · rw [heq]
      exact .inl rfl
    · rw [heq]
      exact .inr ⟨hi, (Nat.sub_add_cancel hpos).symm⟩
    · simp [hidle] at hi

/-- Settles O45, by induction on the number of inputs that may still come first. -/
theorem commandEndsWithinBudget : Obligations.CommandEndsWithinBudget := by
  intro s w hi
  induction hn : s.pollBudget using Nat.strong_induction_on generalizing s with
  | _ n ih =>
    obtain ⟨t, ht⟩ := step_total s
    rcases step_ends_or_uses_budget hi ht with hnone | ⟨hsome, hpoll⟩
    · exact ⟨1, t, Nat.le_add_left 1 n, run_succ ht 0, hnone⟩
    · obtain ⟨k, u, hk, hrun, hu⟩ := ih t.pollBudget (by omega) t hsome rfl
      exact ⟨k + 1, u, by omega, (run_succ ht k).trans hrun, hu⟩

end Sys2Proof.Machine
end

section
/-! PROOFS. The bus map (R60, R63, R64, R66, R67, R99): accesses to the buffer window, accesses that reach nothing, and
the way from a bus address to an offset. -/

namespace Sys2Proof.Machine

/-! ### The buffer window -/

/-- With no command in flight, an aligned write of the window writes the buffer and nothing else (R63, R68). -/
theorem step_of_windowWrite {s : State} {rest : List Input} {width : Width} {o : BitVec 21} {a : Nat} {v : Word}
    (h : s.inputNext (.bus (.write width o v)) rest) (ho : o.toNat = windowStart + a)
    (hb : a + width.bytes ≤ s.params.bufSize) (ha : a % width.bytes = 0) :
    step s = .next (answer .done (writeWindow a width v { s with inputs := rest })) := by
  obtain ⟨hidle, hin⟩ := h
  rw [step_of_idle hidle, performInput_bus hin, performAccess, performWrite, accessTarget_buffer _ _ _ _ ho hb ha]

/-- With no command in flight, an aligned read of the window answers its bytes and changes nothing else (R63, R68). -/
theorem step_of_windowRead {s : State} {rest : List Input} {width : Width} {o : BitVec 21} {a : Nat}
    (h : s.inputNext (.bus (.read width o)) rest) (ho : o.toNat = windowStart + a)
    (hb : a + width.bytes ≤ s.params.bufSize) (ha : a % width.bytes = 0) :
    step s = .next { s with inputs := rest, replies := .data (readWindow s a width) :: s.replies } := by
  obtain ⟨hidle, hin⟩ := h
  rw [step_of_idle hidle, performInput_bus hin, performAccess, performRead, accessTarget_buffer _ _ _ _ ho hb ha]
  rfl

/-- R63: a write of the window stores byte `j` of the data at `a + j`. -/
theorem readByte_writeWindow (s : State) (a : Nat) (width : Width) (v : Word) {j : Nat} (hj : j < width.bytes) :
    (writeWindow a width v s).readByte (a + j) = v.extractLsb' (8 * j) 8 := by
  rw [writeWindow, readByte_memWrite_inside _ _ _ _ (by simpa using hj)]
  simp [wordBytes]

/-- R64: no access is wider than a word. -/
theorem Width.bytes_le (width : Width) : width.bytes ≤ 4 := by
  cases width <;> decide

theorem Width.bytes_pos (width : Width) : 0 < width.bytes := by
  cases width <;> decide

/-- R63: a read of the window is the little-endian number of the bytes at `a`. -/
theorem readWindow_toNat (s : State) (a : Nat) (width : Width) :
    (readWindow s a width).toNat = littleEndian (memRead s a width.bytes) := by
  have hlt := littleEndian_lt (memRead s a width.bytes)
  have hle : 2 ^ (8 * width.bytes) ≤ 2 ^ 32 :=
    Nat.pow_le_pow_right (by decide) (Nat.mul_le_mul_left 8 width.bytes_le)
  rw [memRead_length] at hlt
  exact Nat.mod_eq_of_lt (Nat.lt_of_lt_of_le hlt hle)

/-- R63: byte `j` of a read of the window is the buffer's byte at `a + j`. -/
theorem readWindow_byte (s : State) (a : Nat) (width : Width) {j : Nat} (hj : j < width.bytes) :
    (readWindow s a width).extractLsb' (8 * j) 8 = s.readByte (a + j) := by
  have hbyte := littleEndian_byte (memRead s a width.bytes) j (by simpa using hj)
  refine BitVec.eq_of_toNat_eq ?_
  rw [BitVec.extractLsb'_toNat, Nat.shiftRight_eq_div_pow, readWindow_toNat]
  refine hbyte.trans (congrArg BitVec.toNat ?_)
  simp [memRead]

/-- R63, log 13: the bits of a read above its width are 0. -/
theorem readWindow_lt (s : State) (a : Nat) (width : Width) :
    (readWindow s a width).toNat < 2 ^ (8 * width.bytes) := by
  simpa [readWindow_toNat] using littleEndian_lt (memRead s a width.bytes)

/-- A read of one byte of the window is that byte, widened with zeros. -/
theorem readWindow_w8 (s : State) (a : Nat) : readWindow s a .w8 = (s.readByte a).setWidth 32 := by
  refine BitVec.eq_of_toNat_eq ?_
  rw [readWindow_toNat, BitVec.toNat_setWidth_of_le (by decide)]
  rfl

/-- Settles O40: an aligned access to the window reaches the buffer, which a write and a read take byte by byte. -/
theorem bufferWindowIsLittleEndian : Obligations.BufferWindowIsLittleEndian := by
  intro s rest width o a ho hb ha
  refine ⟨fun v hin => ?_, fun hin => ?_⟩
  · refine ⟨_, step_of_windowWrite hin ho hb ha, fun j hj => ?_, fun x hx => ?_, rfl⟩
    · exact readByte_writeWindow { s with inputs := rest } a width v hj
    · exact readByte_memWrite_outside { s with inputs := rest } a _ x (by simpa using hx)
  · exact ⟨_, step_of_windowRead hin ho hb ha, fun j hj => readWindow_byte s a width hj, readWindow_lt s a width⟩

/-! ### Accesses that reach nothing -/

/-- R67: nothing is mapped between the register block and the window, or past the window. -/
theorem accessTarget_unmapped {p : Params} {o : Nat} (width : Width) (hreg : registerEnd ≤ o)
    (hwin : o < windowStart ∨ windowStart + p.bufSize ≤ o) : accessTarget p width o = none := by
  have hpos := width.bytes_pos
  rw [accessTarget, if_neg (by omega), if_neg (by omega)]

/-- R64: a misaligned access from the start of the window on reaches nothing. -/
theorem accessTarget_misaligned {p : Params} {width : Width} {o : Nat} (hwin : windowStart ≤ o)
    (hbad : o % width.bytes ≠ 0) : accessTarget p width o = none := by
  have hreg : ¬o < registerEnd := by
    simp only [registerEnd, windowStart] at *
    omega
  rw [accessTarget, if_neg hreg, if_neg hbad, ite_self]

/-- Settles O41: in each of the four cases the access reaches nothing. -/
theorem illegalAccessIsBusError : Obligations.IllegalAccessIsBusError := by
  intro s rest width o v hbad hin
  refine step_of_busError hin ?_
  rcases hbad with ⟨hreg, hwin⟩ | hpast | ⟨hwin, hmis⟩ | ⟨hreg, hmis⟩
  · exact accessTarget_unmapped width hreg (.inl hwin)
  · exact accessTarget_unmapped width (by simp only [registerEnd]; omega) (.inr hpast)
  · exact accessTarget_misaligned hwin hmis
  · exact accessTarget_register_none hreg hmis

/-! ### From a bus address to an offset -/

/-- R66: the address at an offset below the span of a block has that offset. -/
theorem offsetOf_of_toNat {p : Params} {address : Word} {o : Nat} (ho : o < Config.blockSpan)
    (h : address.toNat = p.base.toNat + o) : ∃ x : BitVec 21, p.offsetOf address = some x ∧ x.toNat = o :=
  have hx : (BitVec.ofNat 21 o).toNat = o := Nat.mod_eq_of_lt ho
  ⟨BitVec.ofNat 21 o, offsetOf_eq_some.2 (by rw [hx, h]), hx⟩

/-- R248: an access to an address of the block is its next input, at its offset; an access to another address is none
of its inputs. -/
theorem routeToBlock_read (p : Params) (width : Width) (address : Word) (later : List AddressedAccess) :
    routeToBlock p (.read width address :: later)
      = ((p.offsetOf address).map fun o => .bus (.read width o)).toList ++ routeToBlock p later := by
  rw [routeToBlock_cons, Params.transaction]
  cases p.offsetOf address <;> rfl

/-- R248: the same for a write. -/
theorem routeToBlock_write (p : Params) (width : Width) (address v : Word) (later : List AddressedAccess) :
    routeToBlock p (.write width address v :: later)
      = ((p.offsetOf address).map fun o => .bus (.write width o v)).toList ++ routeToBlock p later := by
  rw [routeToBlock_cons, Params.transaction]
  cases p.offsetOf address <;> rfl

/-- R66: two blocks at different aligned `BASE`s have no address in common. -/
theorem offsetOf_eq_none_of_base_ne {p q : Params} {address : Word} (hp : p.base.toNat % Config.blockSpan = 0)
    (hq : q.base.toNat % Config.blockSpan = 0) (hne : p.base ≠ q.base) (h : p.offsetOf address ≠ none) :
    q.offsetOf address = none := by
  have hne' : p.base.toNat ≠ q.base.toNat := fun he => hne (BitVec.eq_of_toNat_eq he)
  rw [Ne, offsetOf_eq_none] at h
  rw [offsetOf_eq_none]
  simp only [Config.blockSpan] at *
  omega

/-- Settles O42: the offset of an address is its distance from `BASE`, and an access routed to the block is the bus
access at that offset. -/
theorem busMapIsRelativeToBase : Obligations.BusMapIsRelativeToBase := by
  refine ⟨fun p address o ⟨_, _, _, _, hbase⟩ => ⟨busAddress_toNat hbase o, offsetOf_eq_some⟩,
    fun p q address ⟨_, _, _, _, hp⟩ ⟨_, _, _, _, hq⟩ => offsetOf_eq_none_of_base_ne hp hq, ?_⟩
  rintro s address later ⟨-, hsize, -, -, -⟩ hidle
  refine ⟨fun o ho h4 haddr hin => ?_, fun a ha haddr hin => ?_, fun o ho haddr width v hin => ?_,
    fun hout width v => ?_⟩
  · obtain ⟨x, hx, rfl⟩ := offsetOf_of_toNat (by simp only [Config.blockSpan]; omega) haddr
    rw [routeToBlock_read, hx] at hin
    exact step_of_registerRead ⟨hidle, hin⟩ ho h4 rfl
  · obtain ⟨x, hx, hxa⟩ := offsetOf_of_toNat (o := windowStart + a)
      (by simp only [Config.blockSpan, Config.bufSizeMax, windowStart] at *; omega) (by rw [haddr, Nat.add_assoc])
    rw [routeToBlock_read, hx] at hin
    rw [← readWindow_w8]
    exact step_of_windowRead ⟨hidle, hin⟩ hxa ha (Nat.mod_one a)
  · obtain ⟨x, hx, rfl⟩ := offsetOf_of_toNat (by simp only [Config.blockSpan]; omega) haddr
    rw [routeToBlock_read, routeToBlock_write, hx] at hin
    refine step_of_busError (hin.imp (And.intro hidle) (And.intro hidle)) ?_
    exact accessTarget_unmapped width (by simp only [registerEnd]; omega) (by simp only [windowStart]; omega)
  · have hnone : s.params.offsetOf address = none := offsetOf_eq_none.2 hout
    rw [routeToBlock_read, routeToBlock_write, hnone]
    exact ⟨rfl, rfl⟩

end Sys2Proof.Machine
end

section
/-! PROOFS. The encoding in the buffer (R61, R62, R142, R143): the bytes `ENCODE` writes, and the pixels they are. -/

namespace Sys2Proof.Machine

/-- R121, R142: an encoding is the input, zeros, and the pad count. -/
theorem encodeBytes_eq (x : Bytes) :
    encodeBytes x = x ++ List.replicate (254 - x.length % 255) 0 ++ [BitVec.ofNat 8 (255 - x.length % 255)] := by
  have hrows : 255 * (rowCount x.length - 1) = 255 * (x.length / 255) := rfl
  have hlast : (x.drop (255 * (x.length / 255))).length = x.length % 255 := by
    rw [List.length_drop]
    omega
  have hpad : 255 - x.length % 255 - 1 = 254 - x.length % 255 := by omega
  have hshort : x.length % 255 ≠ 255 := by omega
  rw [encodeBytes, hrows, padBytes, hlast, if_neg hshort, hpad, ← List.append_assoc, ← List.append_assoc,
    List.take_append_drop]

/-- R230: `ENCODE` passes its checks when its ranges are in order. -/
theorem registerError_encode {s : State} (h : s.rangesOk s.len (255 * (s.len / 255 + 1))) :
    registerError .encode s = none :=
  registerError_eq_none.2 ⟨rfl, rfl, rfl, (boundsCause_eq_none rfl rfl).2 h⟩

/-- R143: byte `k` of the destination is byte `k` of the encoding. -/
theorem readByte_encodeBody (s : State) {k : Nat} (hk : k < 255 * rowCount s.len) :
    (encodeBody s).readByte (s.dst + k) = (encodeBytes (memRead s s.src s.len)).getD k 0 := by
  have hlen : k < (encodeBytes (memRead s s.src s.len)).length := by rwa [encodeBytes_length, memRead_length]
  calc (encodeBody s).readByte (s.dst + k)
      = (memWrite s.dst (encodeBytes (memRead s s.src s.len)) s).readByte (s.dst + k) := readByte_congr rfl rfl _
    _ = (encodeBytes (memRead s s.src s.len))[k] := readByte_memWrite_inside s s.dst _ k hlen
    _ = (encodeBytes (memRead s s.src s.len)).getD k 0 := (List.getD_eq_getElem _ 0 hlen).symm

/-- R61, R62: the channels of a pixel of an image stand in order, three bytes a pixel and 255 bytes a row. -/
theorem pixelAddress_imageWidth (base r c ch : Nat) : pixelAddress base 85 r c ch = base + (255 * r + 3 * c + ch) := by
  simp only [pixelAddress, Config.bytesPerPixel]
  omega

/-- Settles O20: a pixel's channels are bytes of the destination, which are those of the encoding. -/
theorem encodedGridHasPixelLayout : Obligations.EncodedGridHasPixelLayout := by
  intro s _ hranges
  refine ⟨encodeBody s, exec_of_registers_ok (registerError_encode hranges), fun r c hr hc => ?_⟩
  have hchannel : ∀ ch < 3, (encodeBody s).readByte (pixelAddress s.dst 85 r c ch)
      = (memRead s s.src s.len ++ List.replicate (254 - s.len % 255) 0
          ++ [BitVec.ofNat 8 (255 - s.len % 255)]).getD (255 * r + 3 * c + ch) 0 := by
    intro ch hch
    have hk : 255 * r + 3 * c + ch < 255 * rowCount s.len := by
      simp only [rowCount, Config.blockSize]
      omega
    rw [pixelAddress_imageWidth, readByte_encodeBody s hk, encodeBytes_eq, memRead_length]
  simp only [readPixel, hchannel, Nat.reduceLT, Nat.add_zero]

end Sys2Proof.Machine
end

section
/-! PROOFS. The encoding (R90 to R96, R101): which words are commands and of which, why every other word is none, and
what the engine does with it. -/

namespace Sys2Proof

/-! ### The words that are commands -/

/-- R91: the word of a command is the one word with its opcode, its `N` and reserved bits of 0. -/
theorem encode_eq_iff {i : Instr} {w : Word} :
    encode i = w ↔ cmdOpcode w = i.opcode ∧ cmdN w = i.fieldN ∧ cmdReserved w = 0 := by
  obtain ⟨hop, hn, hres⟩ := encode_fields i
  constructor
  · rintro rfl
    exact ⟨hop, hn, hres⟩
  · rintro ⟨hop', hn', hres'⟩
    exact word_eq_of_fields (hop.trans hop'.symm) (hn.trans hn'.symm) (hres.trans hres'.symm)

/-- R93, R96: a word whose opcode is assigned is checked for its reserved bits, and then for its `N`. -/
theorem decodeWord_of_select {w : Word} {build : Byte → Except Illegal Instr}
    (h : selectCommand (cmdOpcode w) = some build) :
    decodeWord w = if cmdReserved w = 0 then build (cmdN w) else .error .reservedBits := by
  rw [decodeWord, h]

/-- R92: a command with `N` is built from any `N` but 0. -/
theorem withN_eq_ok {c : Byte → Instr} {n : Byte} {i : Instr} : withN c n = .ok i ↔ n ≠ 0 ∧ c n = i := by
  unfold withN
  split
  next h0 => exact iff_of_false nofun fun ⟨hn, _⟩ => hn h0
  next hn => rw [Except.ok.injEq, and_iff_right hn]

/-- R92: a command without `N` is built from `N` = 0 alone. -/
theorem withoutN_eq_ok {c : Instr} {n : Byte} {i : Instr} : withoutN c n = .ok i ↔ n = 0 ∧ c = i := by
  unfold withoutN
  split
  next h0 => rw [Except.ok.injEq, and_iff_right h0]
  next hn => exact iff_of_false nofun fun ⟨h0, _⟩ => hn h0

/-- R91 to R93: what an opcode and an `N` build is a well-formed command with that opcode and that `N`. -/
theorem fields_of_build {op n : Byte} {build : Byte → Except Illegal Instr} {i : Instr}
    (hs : selectCommand op = some build) (h : build n = .ok i) :
    i.wellFormed = true ∧ op = i.opcode ∧ n = i.fieldN := by
  rcases selectCommand_cases op with ⟨-, hsel⟩ | ⟨rfl, hsel⟩ | ⟨rfl, hsel⟩ | ⟨j, -, -, -, hop, hj, hwf, hsel⟩ <;>
    rw [hs] at hsel <;> cases hsel
  · obtain ⟨hn, rfl⟩ := withN_eq_ok.1 h
    exact ⟨bne_iff_ne.2 hn, rfl, rfl⟩
  · obtain ⟨hn, rfl⟩ := withN_eq_ok.1 h
    exact ⟨bne_iff_ne.2 hn, rfl, rfl⟩
  · obtain ⟨rfl, rfl⟩ := withoutN_eq_ok.1 h
    exact ⟨hwf, hop.symm, hj.symm⟩

/-- R90 to R96: a word that decodes to a command is the word of that well-formed command. -/
theorem encode_of_decodeWord {w : Word} {i : Instr} (h : decodeWord w = .ok i) :
    i.wellFormed = true ∧ encode i = w := by
  cases hs : selectCommand (cmdOpcode w) with
  | none => simp [decodeWord, hs] at h
  | some build =>
    rw [decodeWord_of_select hs] at h
    split at h
    next hres =>
      obtain ⟨hwf, hop, hn⟩ := fields_of_build hs h
      exact ⟨hwf, encode_eq_iff.2 ⟨hop, hn, hres⟩⟩
    next => cases h

/-- R90 to R96: a word decodes to a command exactly when it is the word of that command, well-formed. -/
theorem decodeWord_eq_ok_iff {w : Word} {i : Instr} : decodeWord w = .ok i ↔ i.wellFormed = true ∧ encode i = w := by
  constructor
  · exact encode_of_decodeWord
  · rintro ⟨hwf, rfl⟩
    exact decodeWord_encode hwf

/-- R92, R94: a command without `N` is selected by its one word. -/
theorem decodeWord_eq_ok_iff_eq {w c : Word} {i : Instr} (hwf : i.wellFormed = true) (hc : encode i = c) :
    decodeWord w = .ok i ↔ w = c := by
  rw [decodeWord_eq_ok_iff, hc, and_iff_right hwf, eq_comm]

/-- R94: under the mask of `PAD` and `UNPAD` a word matches an opcode exactly when it has that opcode and reserved bits
of 0. -/
theorem masked_eq_iff (w : Word) (op : Byte) :
    w &&& 0xFFFF00FF#32 = op.setWidth 32 ↔ cmdOpcode w = op ∧ cmdReserved w = 0 := by
  have hfields := Laws.Fields.fields_of_word 0 op
  rw [show ((0 : Byte).setWidth 32 <<< 8) ||| op.setWidth 32 = op.setWidth 32 by simp] at hfields
  obtain ⟨hop, hn, hres⟩ := hfields
  have hop' : cmdOpcode (w &&& 0xFFFF00FF#32) = cmdOpcode w :=
    BitVec.extractLsb'_and.trans (BitVec.and_allOnes (x := cmdOpcode w))
  have hn' : cmdN (w &&& 0xFFFF00FF#32) = 0 :=
    BitVec.extractLsb'_and.trans (BitVec.and_zero (x := cmdN w))
  have hres' : cmdReserved (w &&& 0xFFFF00FF#32) = cmdReserved w :=
    BitVec.extractLsb'_and.trans (BitVec.and_allOnes (x := cmdReserved w))
  constructor
  · intro h
    rw [← hop', ← hres', h]
    exact ⟨hop, hres⟩
  · rintro ⟨h1, h2⟩
    exact word_eq_of_fields (by rw [hop', hop, h1]) (by rw [hn', hn]) (by rw [hres', hres, h2])

/-- R92, R94: a command with `N` is selected by its opcode under the mask, with the `N` of the word, which is not 0. -/
theorem decodeWord_eq_ok_iff_masked {w : Word} {i : Instr} (hwf : i.wellFormed = true ↔ i.fieldN ≠ 0) :
    decodeWord w = .ok i ↔ w &&& 0xFFFF00FF#32 = i.opcode.setWidth 32 ∧ cmdN w ≠ 0 ∧ i.fieldN = cmdN w := by
  rw [decodeWord_eq_ok_iff, encode_eq_iff, masked_eq_iff, hwf]
  constructor
  · rintro ⟨hn, hop, hN, hres⟩
    exact ⟨⟨hop, hres⟩, hN ▸ hn, hN.symm⟩
  · rintro ⟨⟨hop, hres⟩, hn, hN⟩
    exact ⟨hN ▸ hn, hop, hN.symm, hres⟩

/-- Settles O1: both directions of `decodeWord_eq_ok_iff`. -/
theorem decodeInvertsEncode : Obligations.DecodeInvertsEncode :=
  ⟨fun _ => decodeWord_encode, fun _ _ => encode_of_decodeWord⟩

/-- Settles O2: the commands with `N` are selected under the mask, each other one by its word. -/
theorem decodeMatchesOpcodeTable : Obligations.DecodeMatchesOpcodeTable := fun _ =>
  ⟨fun _ => decodeWord_eq_ok_iff_masked bne_iff_ne, fun _ => decodeWord_eq_ok_iff_masked bne_iff_ne,
    decodeWord_eq_ok_iff_eq rfl rfl, decodeWord_eq_ok_iff_eq rfl rfl, decodeWord_eq_ok_iff_eq rfl rfl,
    decodeWord_eq_ok_iff_eq rfl rfl, decodeWord_eq_ok_iff_eq rfl rfl, decodeWord_eq_ok_iff_eq rfl rfl,
    decodeWord_eq_ok_iff_eq rfl rfl, decodeWord_eq_ok_iff_eq rfl rfl⟩

/-! ### The words that are none -/

/-- R95: an opcode that is not assigned is the first check. -/
theorem decodeWord_of_unassigned {w : Word} (hop : cmdOpcode w ∉ assignedOpcodes) :
    decodeWord w = .error .badOpcode := by
  rcases selectCommand_cases (cmdOpcode w) with ⟨-, hs⟩ | ⟨h, -⟩ | ⟨h, -⟩ | ⟨i, h, -⟩
  · rw [decodeWord, hs]
  · exact absurd (by rw [h]; decide) hop
  · exact absurd (by rw [h]; decide) hop
  · exact absurd h hop

/-- R93: an assigned opcode selects a command. -/
theorem selectCommand_of_assigned {op : Byte} (hop : op ∈ assignedOpcodes) : ∃ build, selectCommand op = some build := by
  rcases selectCommand_cases op with ⟨h, -⟩ | ⟨-, hs⟩ | ⟨-, hs⟩ | ⟨i, -, -, -, -, -, -, hs⟩
  · exact absurd hop h
  · exact ⟨_, hs⟩
  · exact ⟨_, hs⟩
  · exact ⟨_, hs⟩

/-- R96: reserved bits that are not 0 are the second check. -/
theorem decodeWord_of_reserved {w : Word} (hop : cmdOpcode w ∈ assignedOpcodes) (hres : cmdReserved w ≠ 0) :
    decodeWord w = .error .reservedBits := by
  obtain ⟨build, hs⟩ := selectCommand_of_assigned hop
  rw [decodeWord_of_select hs, if_neg hres]

/-- R92, R96: `PAD` and `UNPAD` with `N` = 0 fail the third check. -/
theorem decodeWord_of_zero_n {w : Word} (hres : cmdReserved w = 0) (hop : cmdOpcode w = 0x01 ∨ cmdOpcode w = 0x02)
    (hn : cmdN w = 0) : decodeWord w = .error .badN := by
  have hs : ∃ c, selectCommand (cmdOpcode w) = some (withN c) := by
    rcases hop with h | h <;> rw [h]
    · exact ⟨_, rfl⟩
    · exact ⟨_, rfl⟩
  obtain ⟨c, hs⟩ := hs
  rw [decodeWord_of_select hs, if_pos hres, withN, if_pos hn]

/-- R92, R96: any other command with an `N` that is not 0 fails the third check. -/
theorem decodeWord_of_nonzero_n {w : Word} (hop : cmdOpcode w ∈ assignedOpcodes) (hres : cmdReserved w = 0)
    (hpad : cmdOpcode w ≠ 0x01) (hunpad : cmdOpcode w ≠ 0x02) (hn : cmdN w ≠ 0) : decodeWord w = .error .badN := by
  rcases selectCommand_cases (cmdOpcode w) with ⟨h, -⟩ | ⟨h, -⟩ | ⟨h, -⟩ | ⟨i, -, -, -, -, -, -, hs⟩
  · exact absurd hop h
  · exact absurd h hpad
  · exact absurd h hunpad
  · rw [decodeWord_of_select hs, if_pos hres, withoutN, if_neg hn]

/-- Settles O4: four words are those of commands, and three fail one check each. -/
theorem sampleWordsDecode : Obligations.SampleWordsDecode :=
  ⟨decodeWord_encode (i := .pad 255) rfl, decodeWord_encode (i := .unpad 4) rfl, decodeWord_encode (i := .encode) rfl,
    decodeWord_encode (i := .exportArtifact) rfl, decodeWord_of_unassigned (by decide),
    decodeWord_of_reserved (by decide) (by decide),
    decodeWord_of_nonzero_n (by decide) (by decide) (by decide) (by decide) (by decide)⟩

end Sys2Proof

namespace Sys2Proof.Machine

/-- Settles O3: the first check that fails gives the reason the word is no command, and the engine's step rejects it for
that reason. -/
theorem illegalWordCompletesWithFirstCause : Obligations.IllegalWordCompletesWithFirstCause := fun _ _ hw =>
  ⟨fun hop => step_of_illegal hw (decodeWord_of_unassigned hop),
    fun hop hres => step_of_illegal hw (decodeWord_of_reserved hop hres),
    fun hres hop hn => step_of_illegal hw (decodeWord_of_zero_n hres hop hn),
    fun hop hres hpad hunpad hn => step_of_illegal hw (decodeWord_of_nonzero_n hop hres hpad hunpad hn)⟩

/-! ### The host's polls (R102, R205) -/

/-- R44: `BUSY` is 0 with no command in flight. -/
theorem busy_of_idle {s : State} (h : s.inflight = none) : s.busy = false := by
  rw [State.busy, h]
  rfl

/-- With no command in flight, `WAIT` goes on after one read of `STATUS` (R102). -/
theorem step_of_wait {s : State} {rest : List Input} (h : s.inputNext .wait rest) :
    step s = .next { s with inputs := rest, replies := .data (statusWord s) :: s.replies } := by
  obtain ⟨hidle, hin⟩ := h
  rw [step_of_idle hidle, performInput_wait hin, busy_of_idle hidle]
  rfl

/-- With no command in flight, the stop-on-error check reads `STATUS` once and goes on as `ERR` says (R205, log 19). -/
theorem step_of_stopOnError {s : State} {skip : Nat} {rest : List Input} (h : s.inputNext (.stopOnError skip) rest) :
    step s = .next { s with
      inputs := if s.err = .ok then rest else rest.drop skip, replies := .data (statusWord s) :: s.replies } := by
  obtain ⟨hidle, hin⟩ := h
  rw [step_of_idle hidle, performInput_stopOnError hin, busy_of_idle hidle]
  rfl

/-- Settles O46: one read of `STATUS`, whose `ERR` decides what the stop-on-error check leaves out. -/
theorem waitAndStopOnError : Obligations.WaitAndStopOnError := by
  refine fun s rest skip => ⟨step_of_wait, fun hin hok => ?_, fun hin herr => ?_⟩
  · rw [step_of_stopOnError hin, if_pos hok]
  · rw [step_of_stopOnError hin, if_neg herr]

end Sys2Proof.Machine
end

section
/-! PROOFS. The padding unit (R121 to R126): padding and unpadding undo each other as far as the count tells, the
commands `PAD` and `UNPAD` write what the pure functions answer, and a wrong length comes first. -/

namespace Sys2Proof.Machine

/-! ### What `pad_n` answers (R121) -/

/-- A full block is padded to itself. -/
theorem padBytes_of_length_eq {n : Nat} {y : Bytes} (h : y.length = n) : padBytes n y = y := if_pos h

/-- Shorter data is followed by zeros and the pad count. -/
theorem padBytes_of_length_lt {n : Nat} {y : Bytes} (h : y.length < n) :
    padBytes n y = y ++ List.replicate (n - y.length - 1) 0 ++ [BitVec.ofNat 8 (n - y.length)] := if_neg h.ne

/-- Shorter data and its filler fill the block up to its last byte. -/
theorem length_data_filler {n : Nat} {y : Bytes} (h : y.length < n) :
    (y ++ List.replicate (n - y.length - 1) (0 : Byte)).length = n - 1 := by
  rw [List.length_append, List.length_replicate]
  omega

/-- The last byte of padded shorter data counts the bytes added. -/
theorem padCount_padBytes {n : Nat} {y : Bytes} (hn : n ≤ 255) (h : y.length < n) :
    padCount n (padBytes n y) = n - y.length := by
  rw [padCount, padBytes_of_length_lt h, ← length_data_filler h, List.getD_eq_getElem?_getD,
    List.getElem?_concat_length, Option.getD_some, BitVec.toNat_ofNat]
  omega

/-- Padded data starts with the data. -/
theorem take_length_padBytes (n : Nat) (y : Bytes) : (padBytes n y).take y.length = y := by
  unfold padBytes
  split
  · exact List.take_length
  · rw [List.append_assoc, List.take_left]

/-- The filler of padded shorter data is zero. -/
theorem fillerBytes_padBytes {n : Nat} {y : Bytes} (h : y.length < n) :
    fillerBytes n (n - y.length) (padBytes n y) = List.replicate (n - y.length - 1) 0 := by
  rw [fillerBytes, padBytes_of_length_lt h, ← length_data_filler h, List.take_left, Nat.sub_sub_self h.le,
    List.drop_left]

/-- The bytes between the data and the pad count are zero. -/
theorem padBytes_getD_filler {n j : Nat} {y : Bytes} (hj : y.length ≤ j) (hjn : j < n - 1) :
    (padBytes n y).getD j 0 = 0 := by
  have hlt : y.length < n := by omega
  have hz : j - y.length < n - y.length - 1 := by omega
  rw [padBytes_of_length_lt hlt, List.append_assoc, List.getD_append_right _ _ _ _ hj,
    List.getD_append _ _ _ _ (by simpa using hz), List.getD_replicate _ hz]

/-! ### What `unpad_n` answers (R122) -/

/-- A block unpads exactly when its count is in range and its filler, where it is checked, is zero; and then to what
stands before the filler. -/
theorem unpadBytes_eq_ok_iff {fc : Bool} {n : Nat} {b r : Bytes} :
    unpadBytes fc n b = .ok r ↔
      1 ≤ padCount n b ∧ padCount n b ≤ n ∧ (fc = true → ∀ x ∈ fillerBytes n (padCount n b) b, x = 0)
        ∧ b.take (n - padCount n b) = r := by
  constructor
  · intro h
    rcases unpadBytes_cases fc n b with ⟨e, -⟩ | ⟨e, -⟩ | ⟨e, -⟩ | ⟨e, hpos, hle, hzero⟩ <;> rw [e] at h
    · cases h
    · cases h
    · cases h
    · exact ⟨hpos, hle, hzero, Except.ok.inj h⟩
  · rintro ⟨hpos, hle, hzero, rfl⟩
    rw [unpadBytes, if_neg (by omega), if_neg (by omega), if_neg]
    simpa using hzero

/-- What a block unpads to is shorter than the block. -/
theorem length_lt_of_unpadBytes_ok {fc : Bool} {n : Nat} {b r : Bytes} (h : unpadBytes fc n b = .ok r) :
    r.length < n := by
  obtain ⟨hpos, hle, -, rfl⟩ := unpadBytes_eq_ok_iff.1 h
  rw [List.length_take]
  omega

/-- R125: padded shorter data unpads to the data. -/
theorem unpadBytes_padBytes (fc : Bool) {n : Nat} {y : Bytes} (hn : n ≤ 255) (h : y.length < n) :
    unpadBytes fc n (padBytes n y) = .ok y := by
  rw [unpadBytes_eq_ok_iff, padCount_padBytes hn h, fillerBytes_padBytes h, Nat.sub_sub_self h.le]
  exact ⟨by omega, Nat.sub_le _ _, fun _ _ hx => List.eq_of_mem_replicate hx, take_length_padBytes n y⟩

/-- R122: the last byte of a block is its pad count. -/
theorem drop_eq_padCount {n : Nat} {b : Bytes} (hb : b.length = n) (hn : 1 ≤ n) :
    b.drop (n - 1) = [BitVec.ofNat 8 (padCount n b)] := by
  have hlt : n - 1 < b.length := by omega
  rw [List.drop_eq_getElem_cons hlt, List.drop_eq_nil_of_le (by omega), padCount, List.getD_eq_getElem _ 0 hlt,
    BitVec.ofNat_toNat, BitVec.setWidth_eq]

/-- R122: a block is its data, its filler and its count, whatever count is taken. -/
theorem block_eq_data_filler_count {n k : Nat} {b : Bytes} (hb : b.length = n) (hpos : 1 ≤ k) (hle : k ≤ n) :
    b = b.take (n - k) ++ fillerBytes n k b ++ [BitVec.ofNat 8 (padCount n b)] := by
  have hdata : (b.take (n - 1)).take (n - k) = b.take (n - k) := by rw [List.take_take, Nat.min_eq_left (by omega)]
  calc b = b.take (n - 1) ++ b.drop (n - 1) := (List.take_append_drop _ _).symm
    _ = b.take (n - k) ++ fillerBytes n k b ++ [BitVec.ofNat 8 (padCount n b)] := by
      rw [drop_eq_padCount hb (by omega), ← hdata, fillerBytes, List.take_append_drop]

/-- R126: with the filler checked, a block that unpads is the padding of what it unpads to. -/
theorem padBytes_of_unpadBytes_ok {n : Nat} {b r : Bytes} (hb : b.length = n) (h : unpadBytes true n b = .ok r) :
    padBytes n r = b := by
  obtain ⟨hpos, hle, hzero, hr⟩ := unpadBytes_eq_ok_iff.1 h
  have hlen : r.length = n - padCount n b := by
    rw [← hr, List.length_take]
    omega
  have hfiller : fillerBytes n (padCount n b) b = List.replicate (padCount n b - 1) 0 := by
    refine List.eq_replicate_iff.2 ⟨?_, hzero rfl⟩
    rw [fillerBytes, List.length_drop, List.length_take]
    omega
  rw [padBytes_of_length_lt (length_lt_of_unpadBytes_ok h), hlen, Nat.sub_sub_self hle, ← hfiller, ← hr]
  exact (block_eq_data_filler_count hb hpos hle).symm

/-- Settles O7: the count gives back data shorter than the block; a full block is padded to itself, and what a block
unpads to is never as long as the block. -/
theorem unpadInvertsPad : Obligations.UnpadInvertsPad :=
  ⟨fun fc _ _ _ hn h => unpadBytes_padBytes fc hn h, fun _ _ h => padBytes_of_length_eq h,
    fun _ => ⟨1, [0x01], le_rfl, by decide, rfl, fun h => absurd (length_lt_of_unpadBytes_ok h) (lt_irrefl 1)⟩⟩

/-- Settles O8: a block is its data, filler and count, which with zero filler is the padding of the data; a padding has
no other filler. -/
theorem padInvertsUnpad : Obligations.PadInvertsUnpad := by
  refine ⟨fun n b r _ _ hb h => ⟨length_lt_of_unpadBytes_ok h, padBytes_of_unpadBytes_ok hb h⟩,
    fun n y _ hn h => ⟨padBytes_length h.le, unpadBytes_padBytes true hn h⟩, ?_, ?_⟩
  · rintro n b r j - - - - hj hjn hne rfl
    exact hne (padBytes_getD_filler hj hjn)
  · exact ⟨4, [0x41, 0x42, 0x07, 0x02], [0x41, 0x42], 2, by decide, by decide, rfl, rfl, by decide, by decide,
      by decide⟩

/-! ### How a command that writes its destination ends -/

/-- R237: storing `n` bytes and finishing with `n` leaves those bytes, and changes nothing else but the status. -/
theorem finishCommand_memWrite_effect (s : State) (a : Nat) {bs : Bytes} {n : Nat} (hlen : bs.length = n)
    (hn : n < 2 ^ 32) {t : State} (ht : t = finishCommand n (memWrite a bs s)) :
    t.succeeded n ∧ memRead t a n = bs ∧ sameBufferOutside s t a n ∧ sameOperands s t ∧ sameGrid s t
      ∧ t.cipher = s.cipher ∧ sameOutside s t ∧ sameDraws s t := by
  subst ht hlen
  exact ⟨finishCommand_succeeded _ hn, memRead_memWrite s a bs, sameBufferOutside_memWrite s a bs _ rfl,
    ⟨rfl, rfl, rfl⟩, ⟨rfl, rfl⟩, rfl, ⟨rfl, rfl, rfl, rfl, rfl, rfl⟩, ⟨rfl, rfl⟩⟩

/-- R234, R236: a havoc of `n` bytes and an error change nothing else but the status and the count of the draws. -/
theorem raiseError_havoc_effect (s : State) (input : Bytes) (a n : Nat) (e : ErrCode) (c : Cause) {t : State}
    (ht : t = raiseError e c (havoc input a n s)) :
    t.failed e c ∧ sameBufferOutside s t a n ∧ sameOperands s t ∧ sameGrid s t ∧ t.cipher = s.cipher
      ∧ sameOutside s t := by
  subst ht
  exact ⟨⟨rfl, rfl, rfl, rfl, rfl⟩, sameBufferOutside_havoc s input a n, ⟨rfl, rfl, rfl⟩, ⟨rfl, rfl⟩, rfl,
    ⟨rfl, rfl, rfl, rfl, rfl, rfl⟩⟩

/-! ### `PAD` and `UNPAD` (R123, R124) -/

/-- R123, R230: `PAD` passes its checks when the source fits the block and its ranges are in order. -/
theorem registerError_pad {s : State} {n : Byte} (hn : n ≠ 0) (hl : s.len ≤ n.toNat)
    (h : s.rangesOk s.len n.toNat) : registerError (.pad n) s = none :=
  registerError_eq_none.2
    ⟨bne_iff_ne.2 hn, rfl, by simpa [shapeError, errorIf] using hl, (boundsCause_eq_none rfl rfl).2 h⟩

/-- R124, R230: `UNPAD` passes its checks when the source is one block and its ranges are in order. -/
theorem registerError_unpad {s : State} {n : Byte} (hn : n ≠ 0) (hl : s.len = n.toNat)
    (h : s.rangesOk n.toNat (n.toNat - 1)) : registerError (.unpad n) s = none :=
  registerError_eq_none.2
    ⟨bne_iff_ne.2 hn, rfl, by simpa [shapeError, errorIf] using hl, (boundsCause_eq_none rfl rfl).2 h⟩

/-- R124: a block that unpads is stored unpadded. -/
theorem unpadBody_of_ok {n : Nat} {s : State} {r : Bytes}
    (h : unpadBytes s.params.fillerCheck n (memRead s s.src n) = .ok r) :
    unpadBody n s = finishCommand r.length (memWrite s.dst r s) := by rw [unpadBody, h]

/-- R124, R234: a block that does not unpad leaves `n - 1` havocked bytes and its cause. -/
theorem unpadBody_of_error {n : Nat} {s : State} {c : Cause}
    (h : unpadBytes s.params.fillerCheck n (memRead s s.src n) = .error c) :
    unpadBody n s = raiseError .paddingError c (havoc (memRead s s.src n) s.dst (n - 1) s) := by rw [unpadBody, h]

/-- Settles O16: the body stores the padded source, which has the block size. -/
theorem padWritesPaddedBlock : Obligations.PadWritesPaddedBlock := by
  intro s n hn hl hranges
  have hlen : (padBytes n.toNat (memRead s s.src s.len)).length = n.toNat := padBytes_length (by simpa using hl)
  obtain ⟨hsucc, hread, hframe⟩ := finishCommand_memWrite_effect s s.dst hlen (by omega) (rfl : padBody n.toNat s = _)
  refine ⟨padBody n.toNat s, exec_of_registers_ok (registerError_pad hn hl hranges), hsucc, ?_, hframe⟩
  rw [hread, padBytes, memRead_length]

/-- Settles O17: the source block unpads to its first `n - k` bytes, which the body stores. -/
theorem unpadWritesData : Obligations.UnpadWritesData := by
  intro s n k hn hl hranges hk hpos hle hzero
  have hunpad := unpadBytes_memRead s.params.fillerCheck s s.src n.toNat k (by omega) hk hpos hle hzero
  have hbody : unpadBody n.toNat s
      = finishCommand (n.toNat - k) (memWrite s.dst (memRead s s.src (n.toNat - k)) s) := by
    rw [unpadBody_of_ok hunpad, memRead_length]
  exact ⟨unpadBody n.toNat s, exec_of_registers_ok (registerError_unpad hn hl hranges),
    finishCommand_memWrite_effect s s.dst (memRead_length _ _ _) (by omega) hbody⟩

/-- Settles O18: the source block does not unpad, so the body havocs the destination range and reports the cause. -/
theorem unpadReportsPaddingError : Obligations.UnpadReportsPaddingError := by
  intro s n k hn hl hranges hk c hc
  have hpos : 1 ≤ n.toNat := by bv_omega
  have hunpad := unpadBytes_memRead_error s.params.fillerCheck s s.src n.toNat k hpos hk c hc
  exact ⟨unpadBody n.toNat s, exec_of_registers_ok (registerError_unpad hn hl hranges),
    raiseError_havoc_effect s _ _ _ _ _ (unpadBody_of_error hunpad)⟩

/-! ### The length a command requires (R230 step 3) -/

/-- A failed check is an error. -/
theorem errorIf_of_true {p : Bool} (h : p = true) (e : ErrCode) (c : Cause) : errorIf p e c = some (e, c) := if_pos h

/-- R230: a wrong length or dimension of a command that needs no cipher comes before its bounds. -/
theorem exec_of_shapeError {i : Instr} {s : State} {e : ErrCode} {c : Cause} (hwf : i.wellFormed = true)
    (hcipher : cipherError i s = none) (h : shapeError i s = some (e, c)) :
    exec i s = .next (s.afterError e c) := by
  refine exec_of_register_error ?_
  rw [registerError, operandError, if_pos hwf, hcipher, h]
  rfl

/-- Settles O12: the length check of each of the four commands fails, and no check before it does. -/
theorem wrongLengthReported : Obligations.WrongLengthReported := fun _ =>
  ⟨fun _ hn hl => exec_of_shapeError (bne_iff_ne.2 hn) rfl (errorIf_of_true (decide_eq_true hl) _ _),
    fun _ hn hl => exec_of_shapeError (bne_iff_ne.2 hn) rfl (errorIf_of_true (bne_iff_ne.2 hl) _ _),
    fun hl => exec_of_shapeError rfl rfl (errorIf_of_true (bne_iff_ne.2 hl) _ _),
    fun hl => exec_of_shapeError rfl rfl (errorIf_of_true (bne_iff_ne.2 hl) _ _)⟩

end Sys2Proof.Machine
end

section
/-! PROOFS. The codec unit (R140 to R148): decoding undoes encoding, the commands `ENCODE` and `DECODE` store what the
pure functions answer, the dimensions come first, and nothing but the source and the operands decides the result. -/

namespace Sys2Proof.Machine

/-! ### Ranges of buffer memory -/

/-- R18: a range is read piece by piece. -/
theorem memRead_append (s : State) (a m n : Nat) : memRead s a m ++ memRead s (a + m) n = memRead s a (m + n) := by
  have htake := memRead_take s a (m + n) m (Nat.le_add_right m n)
  have hdrop := memRead_drop s a (m + n) m
  rw [Nat.add_sub_cancel_left] at hdrop
  rw [← htake, ← hdrop, List.take_append_drop]

/-- R14: a range of the buffer is short enough for `RESULT_LEN`. -/
theorem length_lt_of_fits {s : State} {a n : Nat} (hp : s.params.inRange) (h : a + n ≤ s.params.bufSize) :
    n < 2 ^ 32 := by
  obtain ⟨-, hsize, -⟩ := hp
  simp only [Config.bufSizeMax] at hsize
  omega

/-- The first bytes of a written range read back as the first bytes written. -/
theorem memRead_memWrite_take (s : State) (a : Nat) {bs : Bytes} {n : Nat} (h : n ≤ bs.length) :
    memRead (memWrite a bs s) a n = bs.take n := by
  rw [← memRead_take _ _ _ _ h, memRead_memWrite]

/-! ### The pure functions (R142, R144) -/

/-- Settles O9: the shape and the length of an encoding. -/
theorem encodingIsInputZerosCount : Obligations.EncodingIsInputZerosCount := fun x =>
  ⟨encodeBytes_eq x, encodeBytes_length x⟩

/-- R140: the full chunks of an input are its first `255 (L div 255)` bytes. -/
theorem length_fullChunks (x : Bytes) : (x.take (255 * (x.length / 255))).length = 255 * (x.length / 255) := by
  rw [List.length_take]
  omega

/-- R140: the last chunk of an input is shorter than a row. -/
theorem length_lastChunk_lt (x : Bytes) : (x.drop (255 * (x.length / 255))).length < 255 := by
  rw [List.length_drop]
  omega

/-- R142: the interior rows of an encoding are the full chunks of the input. -/
theorem take_interior_encodeBytes (x : Bytes) :
    (encodeBytes x).take (255 * (x.length / 255)) = x.take (255 * (x.length / 255)) :=
  List.take_left' (length_fullChunks x)

/-- R142: the terminal row of an encoding is the last chunk of the input, padded. -/
theorem terminalRow_encodeBytes (x : Bytes) :
    ((encodeBytes x).drop (255 * (x.length / 255))).take 255 = padBytes 255 (x.drop (255 * (x.length / 255))) := by
  have hdrop : (encodeBytes x).drop (255 * (x.length / 255)) = padBytes 255 (x.drop (255 * (x.length / 255))) :=
    List.drop_left' (length_fullChunks x)
  rw [hdrop, List.take_of_length_le (padBytes_length (length_lastChunk_lt x).le).le]

/-- R144: a grid whose terminal row unpads decodes to its interior rows and the data of the terminal row. -/
theorem decodeBytes_of_unpadBytes_ok {fc : Bool} {g r : Bytes} {h : Nat}
    (hr : unpadBytes fc 255 ((g.drop (255 * (h - 1))).take 255) = .ok r) :
    decodeBytes fc g h = .ok (g.take (255 * (h - 1)) ++ r) := by rw [decodeBytes, hr]

/-- R144: a grid whose terminal row does not unpad does not decode, for the same cause. -/
theorem decodeBytes_of_unpadBytes_error {fc : Bool} {g : Bytes} {h : Nat} {c : Cause}
    (hc : unpadBytes fc 255 ((g.drop (255 * (h - 1))).take 255) = .error c) : decodeBytes fc g h = .error c := by
  rw [decodeBytes, hc]

/-- R147: decoding an encoding with its row count gives the input. -/
theorem decodeBytes_encodeBytes (fc : Bool) (x : Bytes) :
    decodeBytes fc (encodeBytes x) (x.length / 255 + 1) = .ok x := by
  have hunpad := unpadBytes_padBytes fc le_rfl (length_lastChunk_lt x)
  rw [← terminalRow_encodeBytes] at hunpad
  rw [decodeBytes_of_unpadBytes_ok (h := x.length / 255 + 1) hunpad, Nat.add_sub_cancel, take_interior_encodeBytes,
    List.take_append_drop]

/-- R144: the terminal row of a grid in memory. -/
theorem terminalRow_memRead (s : State) (a : Nat) {h : Nat} (hh : h ≠ 0) :
    ((memRead s a (255 * h)).drop (255 * (h - 1))).take 255 = memRead s (a + 255 * (h - 1)) 255 := by
  have hrow : 255 * h - 255 * (h - 1) = 255 := by omega
  rw [memRead_drop, hrow, memRead_take _ _ _ _ le_rfl]

/-- R144: a grid in memory with a count that is not 0 and, where it is checked, zero filler decodes to its bytes before
the filler. -/
theorem decodeBytes_memRead (fc : Bool) (s : State) (a : Nat) {h k : Nat} (hh : h ≠ 0)
    (hk : k = (s.readByte (a + (255 * h - 1))).toNat) (hpos : k ≠ 0)
    (hzero : fc = true → ∀ j, 255 * h - k ≤ j → j < 255 * h - 1 → s.readByte (a + j) = 0) :
    decodeBytes fc (memRead s a (255 * h)) h = .ok (memRead s a (255 * h - k)) := by
  have hlast : a + (255 * h - 1) = a + 255 * (h - 1) + (255 - 1) := by omega
  have hle : k ≤ 255 := by omega
  have hunpad : unpadBytes fc 255 (memRead s (a + 255 * (h - 1)) 255)
      = .ok (memRead s (a + 255 * (h - 1)) (255 - k)) := by
    refine unpadBytes_memRead fc s _ 255 k (by decide) (hlast ▸ hk) (by omega) hle fun hfc j hj hj' => ?_
    rw [Nat.add_assoc]
    exact hzero hfc _ (by omega) (by omega)
  have hsum : 255 * (h - 1) + (255 - k) = 255 * h - k := by omega
  rw [← terminalRow_memRead s a hh] at hunpad
  rw [decodeBytes_of_unpadBytes_ok hunpad, memRead_take _ _ _ _ (by omega), memRead_append, hsum]

/-- R144: why a grid in memory does not decode: its count is 0, or a filler byte is checked and not zero. -/
theorem decodeBytes_memRead_error (fc : Bool) (s : State) (a : Nat) {h k : Nat} (hh : h ≠ 0)
    (hk : k = (s.readByte (a + (255 * h - 1))).toNat) {c : Cause}
    (hc : (c = .zeroCount ∧ k = 0)
      ∨ (c = .filler ∧ k ≠ 0 ∧ fc = true
          ∧ ∃ j, 255 * h - k ≤ j ∧ j < 255 * h - 1 ∧ s.readByte (a + j) ≠ 0)) :
    decodeBytes fc (memRead s a (255 * h)) h = .error c := by
  have hlast : a + (255 * h - 1) = a + 255 * (h - 1) + (255 - 1) := by omega
  have hle : k ≤ 255 := by omega
  have hunpad : unpadBytes fc 255 (memRead s (a + 255 * (h - 1)) 255) = .error c := by
    refine unpadBytes_memRead_error fc s _ 255 k (by decide) (hlast ▸ hk) c ?_
    rcases hc with hzero | ⟨rfl, hpos, hfc, j, hj, hj', hne⟩
    · exact .inl hzero
    · have hrow : a + 255 * (h - 1) + (j - 255 * (h - 1)) = a + j := by omega
      exact .inr (.inr ⟨rfl, by omega, hle, hfc, j - 255 * (h - 1), by omega, by omega, hrow ▸ hne⟩)
  exact decodeBytes_of_unpadBytes_error (terminalRow_memRead s a hh ▸ hunpad)

/-! ### `ENCODE` (R143) -/

/-- R143: `ENCODE` is a store of the encoding over new grid registers. -/
theorem encodeBody_eq (s : State) :
    encodeBody s = finishCommand (255 * rowCount s.len) (memWrite s.dst (encodeBytes (memRead s s.src s.len))
      { s with gridW := 85, gridH := BitVec.ofNat 32 (rowCount s.len) }) := rfl

/-- R141, R143: the row count fits `GRID_H`. -/
theorem encodeBody_gridH (s : State) : (encodeBody s).gridH.toNat = s.len / 255 + 1 := by
  have hlen : s.len < 2 ^ 32 := s.srcLen.isLt
  rw [encodeBody_eq, finishCommand_gridH, memWrite_gridH, BitVec.toNat_ofNat, rowCount, Config.blockSize]
  omega

/-- R141: the encoding of the source has `rows(L)` rows. -/
theorem length_encodeBytes_source (s : State) :
    (encodeBytes (memRead s s.src s.len)).length = 255 * (s.len / 255 + 1) := by
  rw [encodeBytes_length, memRead_length]
  rfl

/-- R143: the destination holds the encoding of the source. -/
theorem memRead_encodeBody (s : State) :
    memRead (encodeBody s) s.dst (255 * (s.len / 255 + 1)) = encodeBytes (memRead s s.src s.len) := by
  rw [← length_encodeBytes_source]
  exact memRead_memWrite s s.dst _

/-- Settles O19: the body stores the encoding of the source, which has `rows(L)` rows. -/
theorem encodeWritesGrid : Obligations.EncodeWritesGrid := by
  intro s hp hranges
  have ⟨_, hdst, _⟩ := hranges
  have hread := memRead_encodeBody s
  rw [encodeBytes_eq, memRead_length] at hread
  obtain ⟨hsucc, -, hbuf, hops, -, hcipher, hout, hdraws⟩ :=
    finishCommand_memWrite_effect _ s.dst (length_encodeBytes_source s) (length_lt_of_fits hp hdst) (encodeBody_eq s)
  exact ⟨encodeBody s, exec_of_registers_ok (registerError_encode hranges), hsucc, rfl, encodeBody_gridH s, hread, hbuf,
    hops, hcipher, hout, hdraws⟩

/-! ### `DECODE` (R145, R146) -/

/-- R145: a wrong width comes first. -/
theorem shapeError_decode_width {s : State} (h : s.gridW.toNat ≠ 85) :
    shapeError .decode s = some (.corruptImage, .width) := by
  rw [shapeError, errorIf_of_true (bne_iff_ne.2 h), Option.some_or]

/-- R145: a zero height comes second. -/
theorem shapeError_decode_height {s : State} (hw : s.gridW.toNat = 85) (hh : s.gridH.toNat = 0) :
    shapeError .decode s = some (.corruptImage, .height) := by
  simp [shapeError, errorIf, hw, hh]

/-- R145: the dimensions are in order when the width is that of an image and there is a row. -/
theorem shapeError_decode_none {s : State} (hw : s.gridW.toNat = 85) (hh : s.gridH.toNat ≠ 0) :
    shapeError .decode s = none := by
  simp [shapeError, errorIf, hw, hh]

/-- Settles O13: the dimension check fails, and no check before it does. -/
theorem dimensionErrorsReported : Obligations.DimensionErrorsReported := fun _ =>
  ⟨fun hw => exec_of_shapeError rfl rfl (shapeError_decode_width hw),
    fun hw hh => exec_of_shapeError rfl rfl (shapeError_decode_height hw hh)⟩

/-- R146, R230: `DECODE` passes its checks when the dimensions and its ranges are in order. -/
theorem registerError_decode {s : State} (hw : s.gridW.toNat = 85) (hh : s.gridH.toNat ≠ 0)
    (h : s.rangesOk (255 * s.gridH.toNat) (255 * s.gridH.toNat - 1)) : registerError .decode s = none :=
  registerError_eq_none.2 ⟨rfl, rfl, shapeError_decode_none hw hh, (boundsCause_eq_none rfl rfl).2 h⟩

/-- R146: a grid that decodes is stored decoded. -/
theorem decodeBody_of_ok {s : State} {out : Bytes}
    (h : decodeBytes s.params.fillerCheck (memRead s s.src (255 * s.gridH.toNat)) s.gridH.toNat = .ok out) :
    decodeBody s = finishCommand out.length (memWrite s.dst out s) := by rw [decodeBody, h]

/-- R146, R234: a grid that does not decode leaves `255 H - 1` havocked bytes and its cause. -/
theorem decodeBody_of_error {s : State} {c : Cause}
    (h : decodeBytes s.params.fillerCheck (memRead s s.src (255 * s.gridH.toNat)) s.gridH.toNat = .error c) :
    decodeBody s = raiseError .corruptImage c
      (havoc (memRead s s.src (255 * s.gridH.toNat)) s.dst (255 * s.gridH.toNat - 1) s) := by rw [decodeBody, h]

/-- Settles O21: the grid decodes to its first `255 H - k` bytes, which the body stores. -/
theorem decodeWritesBytes : Obligations.DecodeWritesBytes := by
  intro s k hp hw hh hranges hk hpos hzero
  have ⟨_, hdst, _⟩ := hranges
  have hlt : 255 * s.gridH.toNat - k < 2 ^ 32 := length_lt_of_fits (a := s.dst) hp (by omega)
  have hbody := decodeBody_of_ok (decodeBytes_memRead s.params.fillerCheck s s.src hh hk hpos hzero)
  rw [memRead_length] at hbody
  exact ⟨decodeBody s, exec_of_registers_ok (registerError_decode hw hh hranges),
    finishCommand_memWrite_effect s s.dst (memRead_length _ _ _) hlt hbody⟩

/-- Settles O22: the grid does not decode, so the body havocs the destination range and reports the cause. -/
theorem decodeReportsCorruptImage : Obligations.DecodeReportsCorruptImage := by
  intro s k hw hh hranges hk c hc
  have hbody := decodeBody_of_error (decodeBytes_memRead_error s.params.fillerCheck s s.src hh hk hc)
  exact ⟨decodeBody s, exec_of_registers_ok (registerError_decode hw hh hranges),
    raiseError_havoc_effect s _ _ _ _ _ hbody⟩

/-! ### The round trip by the commands (R147) -/

/-- R147: `DECODE` of a grid that holds an encoding stores the input. -/
theorem decodeBody_of_encoding {s : State} {x : Bytes} (hh : s.gridH.toNat = x.length / 255 + 1)
    (hg : memRead s s.src (255 * (x.length / 255 + 1)) = encodeBytes x) :
    decodeBody s = finishCommand x.length (memWrite s.dst x s) :=
  decodeBody_of_ok (by rw [hh, hg, decodeBytes_encodeBytes])

/-- Settles O10: the grid registers and the buffer that `ENCODE` left are the encoding of the source with its row count,
which decodes to the source. -/
theorem decodeInvertsEncoding : Obligations.DecodeInvertsEncoding := by
  refine ⟨decodeBytes_encodeBytes, fun s _ hranges => ⟨encodeBody s,
    exec_of_registers_ok (registerError_encode hranges), rfl, ?_⟩⟩
  rintro s' - ⟨hgridW, hgridH⟩ hbuf hepoch hsrc hranges'
  have hw : s'.gridW.toNat = 85 := by rw [hgridW]; rfl
  have hh : s'.gridH.toNat = s.len / 255 + 1 := by rw [hgridH, encodeBody_gridH]
  have hsrc' : s'.src = s.dst := congrArg BitVec.toNat hsrc
  have hgrid : memRead s' s'.src (255 * (s.len / 255 + 1)) = encodeBytes (memRead s s.src s.len) := by
    rw [hsrc', memRead_congr hbuf hepoch, memRead_encodeBody]
  have hlen : (memRead s s.src s.len).length = s.len := memRead_length _ _ _
  have hbody : decodeBody s' = finishCommand s.len (memWrite s'.dst (memRead s s.src s.len) s') := by
    rw [decodeBody_of_encoding (x := memRead s s.src s.len) (by rw [hlen, hh]) (by rw [hlen, hgrid]), hlen]
  obtain ⟨hsucc, hread, -⟩ := finishCommand_memWrite_effect s' s'.dst hlen s.srcLen.isLt hbody
  exact ⟨decodeBody s', exec_of_registers_ok (registerError_decode hw (by omega) (hh.symm ▸ hranges')), hsucc, hread⟩

/-! ### What decides the result (R148) -/

/-- R98: equal operand registers are equal as naturals. -/
theorem operands_eq {s s' : State} (h : sameOperands s s') : s'.src = s.src ∧ s'.len = s.len ∧ s'.dst = s.dst := by
  obtain ⟨hsrc, hlen, hdst⟩ := h
  exact ⟨congrArg BitVec.toNat hsrc, congrArg BitVec.toNat hlen, congrArg BitVec.toNat hdst⟩

/-- R230: for a command that needs no cipher, the parameters and the operand and grid registers decide the checks. -/
theorem registerError_congr {i : Instr} {s s' : State} (hp : s'.params = s.params) (ho : sameOperands s s')
    (hg : sameGrid s s') (hc : cipherError i s' = cipherError i s) : registerError i s' = registerError i s := by
  obtain ⟨hsrc, hlen, hdst⟩ := operands_eq ho
  obtain ⟨hgridW, hgridH⟩ := hg
  have hshape : shapeError i s' = shapeError i s := by
    cases i <;> simp only [shapeError, hlen, hgridW, hgridH]
  have hsource : sourceLength i s' = sourceLength i s := by
    cases i <;> simp only [sourceLength, hlen, hgridH]
  have hout : outMax i s' = outMax i s := by
    cases i <;> simp only [outMax, hlen, hgridH, hp]
  simp only [registerError, boundsError, boundsCause, hc, hshape, hsource, hout, hsrc, hdst, hp]

/-- R237: two commands that store the same bytes at the same address and report as many leave the same bytes in as
much of the range as `RESULT_LEN` says. -/
theorem memRead_finishCommand_congr {s s' t t' : State} {a n : Nat} {bs : Bytes} (hlen : bs.length = n)
    (ht : t = finishCommand n (memWrite a bs s)) (ht' : t' = finishCommand n (memWrite a bs s')) :
    memRead t' a t.resultLen.toNat = memRead t a t.resultLen.toNat := by
  subst ht ht'
  have hle : (finishCommand n (memWrite a bs s)).resultLen.toNat ≤ bs.length := by
    rw [finishCommand_resultLen, BitVec.toNat_ofNat, hlen]
    exact Nat.mod_le _ _
  exact (memRead_memWrite_take s' a hle).trans (memRead_memWrite_take s a hle).symm

/-- R148: what two runs of a codec command that start from `s` and `s'` and end in `t` and `t'` agree on. -/
def sameCodecResult (s t t' : State) : Prop :=
  t'.err = t.err ∧ t'.cause = t.cause ∧ t'.resultLen = t.resultLen ∧ sameGrid t t'
    ∧ (t.err = .ok → memRead t' s.dst t.resultLen.toNat = memRead t s.dst t.resultLen.toNat)
    ∧ t.entropyIn = s.entropyIn ∧ t.cipher = s.cipher

/-- R148: the bodies of `ENCODE` store the same encoding. -/
theorem encodeBody_congr {s s' : State} (ho : sameOperands s s')
    (hx : memRead s s.src s.len = memRead s' s.src s.len) : sameCodecResult s (encodeBody s) (encodeBody s') := by
  obtain ⟨hsrc, hlen, hdst⟩ := operands_eq ho
  have hbody' := encodeBody_eq s'
  rw [hsrc, hlen, hdst, ← hx] at hbody'
  have hread := memRead_finishCommand_congr (length_encodeBytes_source s) (encodeBody_eq s) hbody'
  rw [hbody'] at hread ⊢
  exact ⟨rfl, rfl, rfl, ⟨rfl, rfl⟩, fun _ => hread, rfl, rfl⟩

/-- R148: the bodies of `DECODE` store the same bytes, or end with the same cause. -/
theorem decodeBody_congr {s s' : State} (hp : s'.params = s.params) (ho : sameOperands s s') (hg : sameGrid s s')
    (hx : memRead s s.src (255 * s.gridH.toNat) = memRead s' s.src (255 * s.gridH.toNat)) :
    sameCodecResult s (decodeBody s) (decodeBody s') := by
  obtain ⟨hsrc, -, hdst⟩ := operands_eq ho
  have ⟨_, hgridH⟩ := hg
  have hdecode : decodeBytes s'.params.fillerCheck (memRead s' s'.src (255 * s'.gridH.toNat)) s'.gridH.toNat
      = decodeBytes s.params.fillerCheck (memRead s s.src (255 * s.gridH.toNat)) s.gridH.toNat := by
    rw [hp, hsrc, hgridH, hx]
  cases h : decodeBytes s.params.fillerCheck (memRead s s.src (255 * s.gridH.toNat)) s.gridH.toNat with
  | error c =>
    rw [decodeBody_of_error h, decodeBody_of_error (hdecode.trans h)]
    exact ⟨rfl, rfl, rfl, hg, nofun, rfl, rfl⟩
  | ok out =>
    have hbody' := decodeBody_of_ok (hdecode.trans h)
    rw [hdst] at hbody'
    have hread := memRead_finishCommand_congr rfl (decodeBody_of_ok h) hbody'
    rw [decodeBody_of_ok h, hbody'] at hread ⊢
    exact ⟨rfl, rfl, rfl, hg, fun _ => hread, rfl, rfl⟩

/-- Settles O55: the same checks decide, with an error that has no other effect, or the bodies agree. -/
theorem codecDependsOnSourceAlone : Obligations.CodecDependsOnSourceAlone := by
  intro i s s' t t' hi hp ho hg h h'
  have hcipher : cipherError i s' = cipherError i s := by
    rcases hi with ⟨rfl, -⟩ | ⟨rfl, -⟩ <;> rfl
  have hchecks := registerError_congr hp ho hg hcipher
  rcases exec_cases h with ⟨e, c, herr, rfl⟩ | ⟨hnone, rfl⟩
  · rw [exec_of_register_error (hchecks.trans herr)] at h'
    cases h'
    exact ⟨rfl, rfl, rfl, hg, fun _ => rfl, rfl, rfl⟩
  · rw [exec_of_registers_ok (hchecks.trans hnone)] at h'
    cases h'
    rcases hi with ⟨rfl, hx⟩ | ⟨rfl, hx⟩
    · exact encodeBody_congr ho hx
    · exact decodeBody_congr hp ho hg hx

end Sys2Proof.Machine
end

section
/-! PROOFS. The cipher unit (R160 to R182): the laws of the AEAD, the errors of a missing cipher and of a short input,
what each construction leaves, the layout of the key artifact, and that decryption undoes encryption. -/

namespace Sys2Proof.Machine

/-! ### The AEAD (R160, R161) -/

/-- Settles O34: the two functions of the block are a restricted pair. -/
theorem aeadIsLawful : Obligations.AeadIsLawful := lawfulAead_restricted Config.aeadSealRaw Config.aeadOpenRaw

/-- R161: what was sealed opens to the plaintext. -/
theorem aeadOpen_of_aeadSeal {tagLen : Nat} {key : Vector Byte 32} {nonce : Vector Byte 12} {pt ct : Bytes}
    (h : aeadSeal tagLen key nonce pt = some ct) : aeadOpen tagLen key nonce ct = some pt := by
  obtain ⟨-, -, hopen⟩ := lawfulSeal_some h
  exact hopen

/-! ### The checks of the cipher commands (R230) -/

/-- R230: a command whose registers are in order ends as its body does. -/
theorem exec_of_body {i : Instr} {s t : State} (hr : registerError i s = none) (hb : commandBody i s = t) :
    exec i s = .next t := by rw [exec_of_registers_ok hr, hb]

/-- R230 step 2: with a cipher no command lacks one. -/
theorem cipherError_of_valid (i : Instr) {s : State} (hv : s.cipher.valid = true) : cipherError i s = none := by
  cases i <;> simp [cipherError, hv]

/-- Settles O11: the check for a cipher fails, and the one check before it passes. -/
theorem noCipherReportedFirst : Obligations.NoCipherReportedFirst := by
  intro s i hi hv
  have hchecks : i.wellFormed = true ∧ cipherError i s = some (.noCipher, .none) := by
    simp only [List.mem_cons, List.not_mem_nil, or_false] at hi
    rcases hi with rfl | rfl | rfl <;> simp [cipherError, hv, Instr.wellFormed]
  obtain ⟨hwf, hcipher⟩ := hchecks
  refine exec_of_register_error ?_
  rw [registerError, operandError, if_pos hwf, hcipher, Option.none_or, Option.some_or]

/-- R165: `GENERATE` reads no operand, so no check can fail. -/
theorem registerError_generate (s : State) : registerError .generate s = none := rfl

/-- R166, R230: `FROM_KEY` passes its checks on a key in bounds. -/
theorem registerError_fromKey {s : State} (hl : s.len = 32) (hb : s.src + 32 ≤ s.params.bufSize) :
    registerError .fromKey s = none :=
  registerError_eq_none.2 ⟨rfl, rfl, by simp [shapeError, errorIf, hl], checkSource_eq_none.2 hb⟩

/-- R167, R230: `FROM_ARTIFACT` passes its checks on an artifact in bounds. -/
theorem registerError_fromArtifact {s : State} (hl : s.len = 44) (hb : s.src + 44 ≤ s.params.bufSize) :
    registerError .fromArtifact s = none :=
  registerError_eq_none.2 ⟨rfl, rfl, by simp [shapeError, errorIf, hl], checkSource_eq_none.2 hb⟩

/-- R168, R230: `EXPORT` passes its checks with a cipher and room for the artifact. -/
theorem registerError_export {s : State} (hv : s.cipher.valid = true) (hb : s.dst + 44 ≤ s.params.bufSize) :
    registerError .exportArtifact s = none :=
  registerError_eq_none.2 ⟨rfl, cipherError_of_valid _ hv, rfl, checkDest_eq_none.2 hb⟩

/-- R180, R230: `ENCRYPT` passes its checks with a cipher and its ranges in order. -/
theorem registerError_encrypt {s : State} (hv : s.cipher.valid = true)
    (h : s.rangesOk s.len (s.len + s.params.tagLen)) : registerError .encrypt s = none :=
  registerError_eq_none.2 ⟨rfl, cipherError_of_valid _ hv, rfl, (boundsCause_eq_none rfl rfl).2 h⟩

/-- R181, R230: `DECRYPT` passes its checks with a cipher and its ranges in order. -/
theorem registerError_decrypt {s : State} (hv : s.cipher.valid = true)
    (h : s.rangesOk s.len (s.len - s.params.tagLen)) : registerError .decrypt s = none :=
  registerError_eq_none.2 ⟨rfl, cipherError_of_valid _ hv, rfl, (boundsCause_eq_none rfl rfl).2 h⟩

/-! ### Settled draws (R45, log 3) -/

/-- The draw is the next settled answer. -/
theorem drawEntropy_of_settled (n : Nat) {s : State} {answer : Option Bytes} {rest : List (Option Bytes)}
    (h : s.entropyIn = answer :: rest) :
    drawEntropy n s = (entropyAnswer n answer, { s with entropyIn := rest }) := by rw [drawEntropy, h]

/-- A settled answer of the length asked for is the draw. -/
theorem drawEntropy_of_answer {n : Nat} {s : State} {bs : Bytes} {rest : List (Option Bytes)}
    (h : s.entropyIn = some bs :: rest) (hl : bs.length = n) :
    ∃ v : Vector Byte n, v.toList = bs ∧ drawEntropy n s = (some v, { s with entropyIn := rest }) := by
  obtain ⟨v, hv, hlist⟩ := entropyAnswer_some hl
  exact ⟨v, hlist, by rw [drawEntropy_of_settled n h, hv]⟩

/-- A settled `fail` is the draw. -/
theorem drawEntropy_of_fail (n : Nat) {s : State} {rest : List (Option Bytes)} (h : s.entropyIn = none :: rest) :
    drawEntropy n s = (none, { s with entropyIn := rest }) := drawEntropy_of_settled n h

/-! ### What a construction leaves (R164 to R167) -/

/-- R164: constructing the slot and finishing with no bytes changes nothing else but the status and the draws. -/
theorem finishCommand_constructCipher_effect (s : State) (o : Origin) {key : Vector Byte 32} {nonce : Vector Byte 12}
    {kb nb : Bytes} (hk : key.toList = kb) (hn : nonce.toList = nb) (d : Nat) (en : List (Option Bytes)) {t : State}
    (ht : t = finishCommand 0 (constructCipher o key nonce { s with draws := d, entropyIn := en })) :
    t.succeeded 0 ∧ t.cipher.valid = true ∧ t.cipher.origin = o ∧ t.cipher.encCount = 0 ∧ t.cipher.key.toList = kb
      ∧ t.cipher.nonce.toList = nb ∧ sameBuffer s t ∧ sameOperands s t ∧ sameGrid s t ∧ sameOutside s t
      ∧ t.draws = d ∧ t.entropyIn = en := by
  subst ht
  exact ⟨finishCommand_succeeded _ (by decide), rfl, rfl, rfl, hk, hn, fun _ => rfl, ⟨rfl, rfl, rfl⟩, ⟨rfl, rfl⟩,
    ⟨rfl, rfl, rfl, rfl, rfl, rfl⟩, rfl, rfl⟩

/-- R236: an error after draws changes nothing but the status and the draws. -/
theorem raiseError_draws_effect (s : State) (e : ErrCode) (c : Cause) (d : Nat) (en : List (Option Bytes)) {t : State}
    (ht : t = raiseError e c { s with draws := d, entropyIn := en }) :
    t.failed e c ∧ t.cipher = s.cipher ∧ sameBuffer s t ∧ sameOperands s t ∧ sameGrid s t ∧ sameOutside s t := by
  subst ht
  exact ⟨⟨rfl, rfl, rfl, rfl, rfl⟩, rfl, fun _ => rfl, ⟨rfl, rfl, rfl⟩, ⟨rfl, rfl⟩, ⟨rfl, rfl, rfl, rfl, rfl, rfl⟩⟩

/-- R165: `GENERATE` draws no nonce after a failed key draw. -/
theorem generateBody_of_failed_key {s : State} (hk : (drawEntropy 32 s).1 = none) :
    generateBody s = raiseError .entropyError .none (drawEntropy 32 s).2 := by
  have hd : drawEntropy 32 s = (none, (drawEntropy 32 s).2) := Prod.ext hk rfl
  rw [generateBody, hd]

/-- R165: `GENERATE` with a failed nonce draw. -/
theorem generateBody_of_failed_nonce {s : State} {key : Vector Byte 32} (hk : (drawEntropy 32 s).1 = some key)
    (hn : (drawEntropy 12 (drawEntropy 32 s).2).1 = none) :
    generateBody s = raiseError .entropyError .none (drawEntropy 12 (drawEntropy 32 s).2).2 := by
  rcases hd : drawEntropy 32 s with ⟨k, s1⟩
  rcases hd' : drawEntropy 12 s1 with ⟨n, s2⟩
  simp only [hd, hd'] at hk hn
  subst hk hn
  simp only [generateBody, hd, hd']

/-- R166: `FROM_KEY` with a failed draw. -/
theorem fromKeyBody_of_failed_nonce {s : State} (hn : (drawEntropy 12 s).1 = none) :
    fromKeyBody s = raiseError .entropyError .none (drawEntropy 12 s).2 := by
  have hd : drawEntropy 12 s = (none, (drawEntropy 12 s).2) := Prod.ext hn rfl
  rw [fromKeyBody, hd]

/-- Settles O23: both draws are the settled answers, and the construction takes them. -/
theorem generateConstructsCipher : Obligations.GenerateConstructsCipher := by
  intro s kb nb rest hin hkb hnb
  obtain ⟨key, hkey, hk⟩ := drawEntropy_of_answer hin hkb
  obtain ⟨nonce, hnonce, hn⟩ := drawEntropy_of_answer (s := { s with entropyIn := some nb :: rest }) rfl hnb
  have hbody := generateBody_of_draws (s := s) (key := key) (nonce := nonce) (by rw [hk]) (by rw [hk, hn])
  rw [hk, hn] at hbody
  exact ⟨generateBody s, exec_of_registers_ok (registerError_generate s),
    finishCommand_constructCipher_effect s .generated hkey hnonce s.draws rest hbody⟩

/-- R165: whatever the draws answer, `GENERATE` constructs the slot or raises `ENTROPY_ERROR`. -/
theorem generateBody_cases (s : State) : ∃ d en,
    generateBody s = raiseError .entropyError .none { s with draws := d, entropyIn := en }
      ∨ ∃ key nonce, generateBody s
          = finishCommand 0 (constructCipher .generated key nonce { s with draws := d, entropyIn := en }) := by
  obtain ⟨d, en, h⟩ := drawEntropy_frame 32 s
  obtain ⟨d', en', h'⟩ := drawEntropy_frame 12 (drawEntropy 32 s).2
  rw [h] at h'
  cases hk : (drawEntropy 32 s).1 with
  | none => exact ⟨d, en, .inl (by rw [generateBody_of_failed_key hk, h])⟩
  | some key =>
    refine ⟨d', en', ?_⟩
    cases hn : (drawEntropy 12 (drawEntropy 32 s).2).1 with
    | none => exact .inl (by rw [generateBody_of_failed_nonce hk hn, h, h'])
    | some nonce => exact .inr ⟨key, nonce, by rw [generateBody_of_draws hk hn, h, h']⟩

/-- Settles O24: an error after draws keeps the slot, and a construction replaces it. -/
theorem generateConstructsOrFails : Obligations.GenerateConstructsOrFails := by
  intro s
  refine ⟨generateBody s, exec_of_registers_ok (registerError_generate s), ?_⟩
  obtain ⟨d, en, hbody | ⟨key, nonce, hbody⟩⟩ := generateBody_cases s
  · obtain ⟨hfailed, hslot, hframe⟩ := raiseError_draws_effect s _ _ d en hbody
    exact ⟨.inr ⟨hfailed, hslot⟩, hframe⟩
  · obtain ⟨hsucc, hvalid, horigin, hcount, -, -, hbuf, hops, hgrid, hout, -⟩ :=
      finishCommand_constructCipher_effect s .generated rfl rfl d en hbody
    exact ⟨.inl ⟨hsucc, hvalid, horigin, hcount⟩, hbuf, hops, hgrid, hout⟩

/-- Settles O26: the draw is the settled answer, and the construction takes it with the source bytes. -/
theorem fromKeyConstructsCipher : Obligations.FromKeyConstructsCipher := by
  intro s nb rest hl hb hin hnb
  obtain ⟨nonce, hnonce, hn⟩ := drawEntropy_of_answer hin hnb
  have hbody := fromKeyBody_of_draw (s := s) (nonce := nonce) (by rw [hn])
  rw [hn] at hbody
  exact ⟨fromKeyBody s, exec_of_registers_ok (registerError_fromKey hl hb),
    finishCommand_constructCipher_effect s .keyMaterial (memReadVector_toList ..) hnonce s.draws rest hbody⟩

/-- Settles O27: the failed draw is the last one, and the error has no other effect. -/
theorem entropyFailureKeepsCipher : Obligations.EntropyFailureKeepsCipher := by
  refine fun s rest => ⟨fun hin => ?_, fun kb hkb hin => ?_, fun hl hb hin => ?_⟩
  · have hk := drawEntropy_of_fail 32 hin
    have hbody := generateBody_of_failed_key (s := s) (by rw [hk])
    rw [hk] at hbody
    exact exec_of_body (registerError_generate s) hbody
  · obtain ⟨key, -, hk⟩ := drawEntropy_of_answer hin hkb
    have hn := drawEntropy_of_fail 12 (s := { s with entropyIn := none :: rest }) rfl
    have hbody := generateBody_of_failed_nonce (s := s) (key := key) (by rw [hk]) (by rw [hk, hn])
    rw [hk, hn] at hbody
    exact exec_of_body (registerError_generate s) hbody
  · have hn := drawEntropy_of_fail 12 hin
    have hbody := fromKeyBody_of_failed_nonce (s := s) (by rw [hn])
    rw [hn] at hbody
    exact exec_of_body (registerError_fromKey hl hb) hbody

/-- Settles O28: the construction takes the two parts of the source and draws nothing. -/
theorem fromArtifactConstructsCipher : Obligations.FromArtifactConstructsCipher := fun s hl hb =>
  ⟨fromArtifactBody s, exec_of_registers_ok (registerError_fromArtifact hl hb),
    finishCommand_constructCipher_effect s .artifact (memReadVector_toList ..) (memReadVector_toList ..) s.draws
      s.entropyIn rfl⟩

/-! ### The key artifact (R168, R169) -/

/-- R169: the layout of an artifact in memory. -/
theorem memRead_artifact {s : State} {a : Nat} {c : CipherSlot} (h : memRead s a 44 = keyArtifact c) :
    memRead s a 32 = c.key.toList ∧ memRead s (a + 32) 12 = c.nonce.toList := by
  constructor
  · rw [← memRead_take s a 44 32 (by decide), h]
    exact List.take_left' c.key.length_toList
  · rw [← memRead_drop s a 44 32, h]
    exact List.drop_left' c.key.length_toList

/-- R168: `EXPORT` stores the artifact and changes nothing else but the status. -/
theorem exportBody_effect (s : State) :
    (exportBody s).succeeded 44 ∧ memRead (exportBody s) s.dst 44 = keyArtifact s.cipher
      ∧ sameBufferOutside s (exportBody s) s.dst 44 ∧ sameOperands s (exportBody s) ∧ sameGrid s (exportBody s)
      ∧ (exportBody s).cipher = s.cipher ∧ sameOutside s (exportBody s) ∧ sameDraws s (exportBody s) :=
  finishCommand_memWrite_effect s s.dst (keyArtifact_length s.cipher) (by decide) rfl

/-- R169: `FROM_ARTIFACT` of the artifact of a slot takes over its key and nonce. -/
theorem fromArtifactBody_of_artifact {s : State} {c : CipherSlot} (h : memRead s s.src 44 = keyArtifact c) :
    (fromArtifactBody s).cipher.key = c.key ∧ (fromArtifactBody s).cipher.nonce = c.nonce := by
  obtain ⟨hkey, hnonce⟩ := memRead_artifact h
  exact ⟨Vector.toList_inj.1 ((memReadVector_toList ..).trans hkey),
    Vector.toList_inj.1 ((memReadVector_toList ..).trans hnonce)⟩

/-- Settles O29: the body stores the artifact, whose parts are the key and the nonce. -/
theorem exportWritesArtifact : Obligations.ExportWritesArtifact := by
  intro s hv hb
  obtain ⟨hsucc, hread, hframe⟩ := exportBody_effect s
  obtain ⟨hkey, hnonce⟩ := memRead_artifact hread
  exact ⟨exportBody s, exec_of_registers_ok (registerError_export hv hb), hsucc, hkey, hnonce, hframe⟩

/-- Settles O30: `FROM_ARTIFACT` reads the layout that `EXPORT` writes. -/
theorem artifactRebuildsCipher : Obligations.ArtifactRebuildsCipher := by
  intro s hv hb
  obtain ⟨-, hread, -⟩ := exportBody_effect s
  obtain ⟨hkey, hnonce⟩ := memRead_artifact hread
  exact ⟨exportBody s, exec_of_registers_ok (registerError_export hv hb), hkey, hnonce, fun s' hl hb' =>
    ⟨fromArtifactBody s', exec_of_registers_ok (registerError_fromArtifact hl hb'), rfl, memReadVector_toList ..,
      memReadVector_toList .., fun h => fromArtifactBody_of_artifact (h.trans hread)⟩⟩

/-! ### Encryption and decryption (R180 to R182) -/

/-- R180: a ciphertext is stored, and the use counted. -/
theorem encryptBody_of_some {s : State} {ct : Bytes}
    (h : aeadSeal s.params.tagLen s.cipher.key s.cipher.nonce (memRead s s.src s.len) = some ct) :
    encryptBody s = finishCommand (s.len + s.params.tagLen) (memWrite s.dst ct (countEncrypt s)) := by
  rw [encryptBody, h]
  rfl

/-- R180, R234: a refused seal leaves the destination havocked. -/
theorem encryptBody_of_none {s : State}
    (h : aeadSeal s.params.tagLen s.cipher.key s.cipher.nonce (memRead s s.src s.len) = none) :
    encryptBody s = raiseError .cipherHardError .none
      (havoc (keyArtifact s.cipher ++ memRead s s.src s.len) s.dst (s.len + s.params.tagLen) s) := by
  rw [encryptBody, h]

/-- R181: a source shorter than a tag is an error at once. -/
theorem decryptBody_of_short {s : State} (h : s.len < s.params.tagLen) :
    decryptBody s = raiseError .authenticationError .shortInput s := if_pos h

/-- R181: a plaintext is stored. -/
theorem decryptBody_of_some {s : State} {pt : Bytes} (hl : s.params.tagLen ≤ s.len)
    (h : aeadOpen s.params.tagLen s.cipher.key s.cipher.nonce (memRead s s.src s.len) = some pt) :
    decryptBody s = finishCommand (s.len - s.params.tagLen) (memWrite s.dst pt s) := by
  rw [decryptBody, if_neg hl.not_gt, h]

/-- R181, R234: a tag that does not verify leaves the destination havocked. -/
theorem decryptBody_of_none {s : State} (hl : s.params.tagLen ≤ s.len)
    (h : aeadOpen s.params.tagLen s.cipher.key s.cipher.nonce (memRead s s.src s.len) = none) :
    decryptBody s = raiseError .authenticationError .tagMismatch
      (havoc (keyArtifact s.cipher ++ memRead s s.src s.len) s.dst (s.len - s.params.tagLen) s) := by
  rw [decryptBody, if_neg hl.not_gt, h]

/-- Settles O31: the answer of `AEAD_SEAL` is stored and counted, or the destination havocked. -/
theorem encryptWritesCiphertext : Obligations.EncryptWritesCiphertext := by
  intro s hp hv hranges
  have ⟨_, hdst, _⟩ := hranges
  refine ⟨encryptBody s, exec_of_registers_ok (registerError_encrypt hv hranges), ?_⟩
  cases hseal : aeadSeal s.params.tagLen s.cipher.key s.cipher.nonce (memRead s s.src s.len) with
  | none =>
    obtain ⟨hfailed, hbuf, hops, hgrid, hslot, hout⟩ :=
      raiseError_havoc_effect s _ _ _ _ _ (encryptBody_of_none hseal)
    rw [hslot]
    exact ⟨nofun, fun _ => ⟨hfailed, rfl⟩, hv, rfl, rfl, rfl, hbuf, hops, hgrid, hout⟩
  | some ct =>
    have hlen : ct.length = s.len + s.params.tagLen := by rw [aeadSeal_length hseal, memRead_length]
    obtain ⟨hsucc, hread, hbuf, hops, hgrid, hslot, hout, hdraws⟩ :=
      finishCommand_memWrite_effect (countEncrypt s) s.dst hlen (length_lt_of_fits hp hdst) (encryptBody_of_some hseal)
    rw [hslot]
    refine ⟨?_, nofun, hv, rfl, rfl, rfl, hbuf, hops, hgrid, hout⟩
    rintro _ ⟨⟩
    exact ⟨hsucc, hread, saturatingSucc_toNat _, hdraws⟩

/-- Settles O32: the answer of `AEAD_OPEN` is stored, or the destination havocked. -/
theorem decryptWritesPlaintext : Obligations.DecryptWritesPlaintext := by
  intro s hp hv hl hranges
  have ⟨_, hdst, _⟩ := hranges
  refine ⟨decryptBody s, exec_of_registers_ok (registerError_decrypt hv hranges), ?_⟩
  cases hopen : aeadOpen s.params.tagLen s.cipher.key s.cipher.nonce (memRead s s.src s.len) with
  | none =>
    obtain ⟨hfailed, hframe⟩ := raiseError_havoc_effect s _ _ _ _ _ (decryptBody_of_none hl hopen)
    exact ⟨nofun, fun _ => hfailed, hframe⟩
  | some pt =>
    have hlen : pt.length = s.len - s.params.tagLen := by
      have h := aeadOpen_length hopen
      rw [memRead_length] at h
      omega
    obtain ⟨hsucc, hread, hbuf, hops, hgrid, hslot, hout, hdraws⟩ :=
      finishCommand_memWrite_effect s s.dst hlen (length_lt_of_fits hp hdst) (decryptBody_of_some hl hopen)
    refine ⟨?_, nofun, hbuf, hops, hgrid, hslot, hout⟩
    rintro _ ⟨⟩
    exact ⟨hsucc, hread, hdraws⟩

/-- Settles O33: the checks pass with an empty destination, and the body reports the short source. -/
theorem decryptReportsShortInput : Obligations.DecryptReportsShortInput := by
  intro s hv hl hranges
  have hzero : s.len - s.params.tagLen = 0 := by omega
  rw [← hzero] at hranges
  exact exec_of_body (registerError_decrypt hv hranges) (decryptBody_of_short hl)

/-- Settles O36: a successful `ENCRYPT` wrote what was sealed, which opens to the plaintext under the key and nonce it
kept, and these an exported artifact carries over. -/
theorem decryptInvertsEncrypt : Obligations.DecryptInvertsEncrypt := by
  intro s hp hv hranges
  obtain ⟨t, hexec, hsome, hnone, hvalid, -, hkey, hnonce, -⟩ := encryptWritesCiphertext s hp hv hranges
  refine ⟨t, hexec, hkey, hnonce, ?_, ?_⟩
  · intro hok s' hp' hv' hkey' hnonce' hlen' hread' hranges'
    cases hseal : aeadSeal s.params.tagLen s.cipher.key s.cipher.nonce (memRead s s.src s.len) with
    | none =>
      obtain ⟨⟨-, -, herr, -⟩, -⟩ := hnone hseal
      rw [hok] at herr
      cases herr
    | some ct =>
      obtain ⟨-, hct, -⟩ := hsome ct hseal
      have hout : s'.len - s'.params.tagLen = s.len := by rw [hp', hlen', Nat.add_sub_cancel]
      have hopen : aeadOpen s'.params.tagLen s'.cipher.key s'.cipher.nonce (memRead s' s'.src s'.len)
          = some (memRead s s.src s.len) := by
        rw [hp', hkey', hnonce', hread', hct]
        exact aeadOpen_of_aeadSeal hseal
      obtain ⟨u, hdec, hplain, -⟩ :=
        decryptWritesPlaintext s' (hp' ▸ hp) hv' (by rw [hp', hlen']; omega) (hout.symm ▸ hranges')
      obtain ⟨hsucc, hpt, -⟩ := hplain _ hopen
      rw [hout] at hsucc hpt
      exact ⟨u, hdec, hsucc, hpt⟩
  · intro x hslot hb
    obtain ⟨-, hread, -⟩ := exportBody_effect x
    refine ⟨exportBody x, exec_of_registers_ok (registerError_export (hslot ▸ hvalid) hb), fun z hl hb' hz => ?_⟩
    obtain ⟨hk, hn⟩ := fromArtifactBody_of_artifact (hz.trans hread)
    rw [hslot] at hk hn
    exact ⟨fromArtifactBody z, exec_of_registers_ok (registerError_fromArtifact hl hb'), rfl, hk.trans hkey,
      hn.trans hnonce⟩

end Sys2Proof.Machine
end

section
/-! PROOFS. The orchestration (R201 to R207): what each stage of a sequence comes to, from the loads of its operands to
the stop-on-error read after its command, and that the sequences that open an image undo those that make one. -/

namespace Sys2Proof.Machine

/-! ### The expansions (R201 to R204) -/

/-- Settles O56: each sequence is its expansion, and each word that of its command. -/
theorem sequencesExpandAsStated : Obligations.SequencesExpandAsStated :=
  ⟨fun _ _ _ => rfl, fun _ _ _ _ => rfl, fun _ _ _ _ _ _ => rfl, fun _ _ _ _ _ _ => rfl⟩

/-- Settles O57: the read puts two register writes before the rest, which are the next two steps. -/
theorem sourceFromResultReadsLength : Obligations.SourceFromResultReadsLength := by
  rintro s rest tmp ⟨hidle, hin⟩
  have hread := step_of_idle hidle
  rw [performInput_sourceFromResult hin] at hread
  have hsrc := step_of_registerWrite (o := 0x014) (v := tmp) (rest := w32 offSrcLen s.resultLen :: rest)
    (s := { s with inputs := w32 offSrcAddr tmp :: w32 offSrcLen s.resultLen :: rest
                   replies := .data s.resultLen :: s.replies }) ⟨hidle, rfl⟩ (by decide) (by decide)
  have hlen := step_of_registerWrite (o := 0x018) (v := s.resultLen) (rest := rest)
    (s := { s with srcAddr := tmp, inputs := w32 offSrcLen s.resultLen :: rest
                   replies := .done :: .data s.resultLen :: s.replies }) ⟨hidle, rfl⟩ (by decide) (by decide)
  exact ⟨_, (run_succ hread 2).trans ((run_succ hsrc 1).trans (run_succ hlen 0)), rfl⟩

/-! ### Operands within the buffer -/

/-- R14, R98: a register keeps a number up to the buffer size. -/
theorem toNat_ofNat_of_le {p : Params} {n : Nat} (hp : p.inRange) (h : n ≤ p.bufSize) :
    (BitVec.ofNat 32 n).toNat = n := by
  obtain ⟨-, hsize, -⟩ := hp
  refine Nat.mod_eq_of_lt ?_
  simp only [Config.bufSizeMax] at hsize
  omega

/-- R201: two ranges share no byte in either order. -/
theorem rangesDisjoint.symm {a n b m : Nat} (h : rangesDisjoint a n b m) : rangesDisjoint b m a n := by
  unfold rangesDisjoint at *
  omega

/-- R231 to R233: ranges in bounds that share no byte are in order. -/
theorem rangesOk_of_disjoint {s : State} {len m : Nat} (hb : s.src + len ≤ s.params.bufSize)
    (hb' : s.dst + m ≤ s.params.bufSize) (h : rangesDisjoint s.src len s.dst m) : s.rangesOk len m := by
  unfold rangesDisjoint at h
  exact ⟨hb, hb', by omega⟩

/-- A range that shares no byte with the changed one reads as before. -/
theorem memRead_of_sameBufferOutside {s t : State} {d n a m : Nat} (h : sameBufferOutside s t d n)
    (hd : rangesDisjoint a m d n) : memRead t a m = memRead s a m := by
  refine List.map_congr_left fun i hi => h (a + i) ?_
  have hlt := List.mem_range.1 hi
  unfold rangesDisjoint at hd
  omega

/-- R169: the key and the nonce decide the artifact. -/
theorem keyArtifact_congr {c c' : CipherSlot} (hk : c'.key = c.key) (hn : c'.nonce = c.nonce) :
    keyArtifact c' = keyArtifact c := by rw [keyArtifact, hk, hn, keyArtifact]

/-! ### The commands of the sequences, by their operands

The operand registers hold given numbers, as the loads before the command leave them. -/

section
variable {s t : State} {src len dst : Nat}

/-- R143: `ENCODE` writes the encoding of the source. -/
theorem exec_encode_of_operands (h : exec .encode s = .next t) (hp : s.params.inRange) (hsrc : s.src = src)
    (hlen : s.len = len) (hdst : s.dst = dst) (hb : src + len ≤ s.params.bufSize)
    (hb' : dst + 255 * (len / 255 + 1) ≤ s.params.bufSize) (hd : rangesDisjoint src len dst (255 * (len / 255 + 1))) :
    t.err = .ok ∧ t.gridW = 85 ∧ t.gridH.toNat = len / 255 + 1
      ∧ memRead t dst (255 * (len / 255 + 1)) = encodeBytes (memRead s src len)
      ∧ sameBufferOutside s t dst (255 * (len / 255 + 1)) ∧ t.cipher = s.cipher := by
  subst hsrc hlen hdst
  obtain ⟨u, hu, ⟨-, -, hok, -⟩, hgridW, hgridH, hread, hbuf, -, hcipher, -⟩ :=
    encodeWritesGrid s hp (rangesOk_of_disjoint hb hb' hd)
  cases h.symm.trans hu
  rw [encodeBytes_eq, memRead_length]
  exact ⟨hok, hgridW, hgridH, hread, hbuf, hcipher⟩

/-- R146, R147: `DECODE` of a grid that holds the encoding of `x` writes `x`. -/
theorem exec_decode_of_operands {x : Bytes} (h : exec .decode s = .next t) (hp : s.params.inRange) (hsrc : s.src = src)
    (hdst : s.dst = dst) (hw : s.gridW.toNat = 85) (hh : s.gridH.toNat = x.length / 255 + 1)
    (hg : memRead s src (255 * (x.length / 255 + 1)) = encodeBytes x)
    (hb : src + 255 * (x.length / 255 + 1) ≤ s.params.bufSize)
    (hb' : dst + (255 * (x.length / 255 + 1) - 1) ≤ s.params.bufSize)
    (hd : rangesDisjoint src (255 * (x.length / 255 + 1)) dst (255 * (x.length / 255 + 1) - 1)) :
    t.succeeded x.length ∧ memRead t dst x.length = x ∧ t.cipher = s.cipher := by
  subst hsrc hdst
  have hranges := rangesOk_of_disjoint hb hb' hd
  rw [← hh] at hranges
  rw [exec_of_registers_ok (registerError_decode hw (by omega) hranges)] at h
  cases h
  obtain ⟨hsucc, hread, -, -, -, hcipher, -⟩ := finishCommand_memWrite_effect s s.dst rfl
    (length_lt_of_fits (a := s.dst) hp (by omega)) (decodeBody_of_encoding hh hg)
  exact ⟨hsucc, hread, hcipher⟩

/-- R168: `EXPORT` writes the artifact. -/
theorem exec_export_of_operands (h : exec .exportArtifact s = .next t) (hdst : s.dst = dst)
    (hv : s.cipher.valid = true) (hb : dst + 44 ≤ s.params.bufSize) :
    t.err = .ok ∧ memRead t dst 44 = keyArtifact s.cipher ∧ sameBufferOutside s t dst 44 ∧ t.cipher = s.cipher := by
  subst hdst
  rw [exec_of_registers_ok (registerError_export hv hb)] at h
  cases h
  obtain ⟨⟨-, -, hok, -⟩, hread, hbuf, -, -, hcipher, -⟩ := exportBody_effect s
  exact ⟨hok, hread, hbuf, hcipher⟩

/-- R169: `FROM_ARTIFACT` of the artifact of a slot `c` takes over its key and nonce. -/
theorem exec_fromArtifact_of_operands {c : CipherSlot} (h : exec .fromArtifact s = .next t) (hsrc : s.src = src)
    (hlen : s.len = 44) (hb : src + 44 ≤ s.params.bufSize) (hc : memRead s src 44 = keyArtifact c) :
    t.err = .ok ∧ t.cipher.valid = true ∧ t.cipher.key = c.key ∧ t.cipher.nonce = c.nonce
      ∧ ∀ a n, memRead t a n = memRead s a n := by
  subst hsrc
  rw [exec_of_registers_ok (registerError_fromArtifact hlen hb)] at h
  cases h
  obtain ⟨hkey, hnonce⟩ := fromArtifactBody_of_artifact hc
  exact ⟨rfl, rfl, hkey, hnonce, fun _ _ => rfl⟩

/-- R180: `ENCRYPT` writes and counts what `AEAD_SEAL` answers, or ends with an error if it does not answer. -/
theorem exec_encrypt_of_operands {tag : Nat} (h : exec .encrypt s = .next t) (hp : s.params.inRange)
    (htag : s.params.tagLen = tag) (hv : s.cipher.valid = true) (hsrc : s.src = src) (hlen : s.len = len)
    (hdst : s.dst = dst) (hb : src + len ≤ s.params.bufSize) (hb' : dst + (len + tag) ≤ s.params.bufSize)
    (hd : rangesDisjoint src len dst (len + tag)) :
    ((t.err ≠ .ok ∧ aeadSeal tag s.cipher.key s.cipher.nonce (memRead s src len) = none)
        ∨ (t.err = .ok ∧ t.cipher.encCount.toNat = min (s.cipher.encCount.toNat + 1) 255
          ∧ aeadSeal tag s.cipher.key s.cipher.nonce (memRead s src len) = some (memRead t dst (len + tag))))
      ∧ t.cipher.key = s.cipher.key ∧ t.cipher.nonce = s.cipher.nonce ∧ sameBufferOutside s t dst (len + tag) := by
  subst hsrc hlen hdst htag
  obtain ⟨u, hu, hsome, hnone, -, -, hkey, hnonce, hbuf, -⟩ :=
    encryptWritesCiphertext s hp hv (rangesOk_of_disjoint hb hb' hd)
  cases h.symm.trans hu
  refine ⟨?_, hkey, hnonce, hbuf⟩
  cases hseal : aeadSeal s.params.tagLen s.cipher.key s.cipher.nonce (memRead s s.src s.len) with
  | none =>
    obtain ⟨⟨-, -, herr, -⟩, -⟩ := hnone hseal
    exact .inl ⟨by simp [herr], rfl⟩
  | some ct =>
    obtain ⟨⟨-, -, hok, -⟩, hread, hcount, -⟩ := hsome ct hseal
    exact .inr ⟨hok, hcount, by rw [hread]⟩

/-- R181: `DECRYPT` of a ciphertext that opens to `pt` writes `pt`. -/
theorem exec_decrypt_of_operands {tag : Nat} {pt : Bytes} (h : exec .decrypt s = .next t) (hp : s.params.inRange)
    (htag : s.params.tagLen = tag) (hv : s.cipher.valid = true) (hsrc : s.src = src) (hlen : s.len = len + tag)
    (hdst : s.dst = dst) (hb : src + (len + tag) ≤ s.params.bufSize) (hb' : dst + len ≤ s.params.bufSize)
    (hd : rangesDisjoint src (len + tag) dst len)
    (hopen : aeadOpen tag s.cipher.key s.cipher.nonce (memRead s src (len + tag)) = some pt) :
    t.succeeded len ∧ memRead t dst len = pt := by
  subst hsrc hdst htag
  have hout : s.len - s.params.tagLen = len := by omega
  have hranges := rangesOk_of_disjoint hb hb' hd
  rw [← hlen] at hranges hopen
  rw [← hout] at hranges ⊢
  obtain ⟨u, hu, hsome, -⟩ := decryptWritesPlaintext s hp hv (by omega) hranges
  cases h.symm.trans hu
  obtain ⟨hsucc, hread, -⟩ := hsome pt hopen
  exact ⟨hsucc, hread⟩

end

/-! ### The stages of a sequence (R205) -/

/-- A stage that began in `s`, or several, ended in `t`, with the inputs `later` still to come. -/
structure StageEnded (s t : State) (later : List Input) : Prop where
  reaches : Reaches s t
  idle : t.inflight = none
  params : t.params = s.params
  inputs : t.inputs = later

theorem StageEnded.trans {s t u : State} {later last : List Input} (h : StageEnded s t later)
    (h' : StageEnded t u last) : StageEnded s u last :=
  ⟨h.reaches.trans h'.reaches, h'.idle, h'.params.trans h.params, h'.inputs⟩

/-- R102: `SRC a, l` and `DST d`. -/
theorem Reaches.of_setSource_setDest {s : State} {a l d : Nat} {rest : List Input} (hi : s.inflight = none)
    (h : s.inputs = setSource a l ++ setDest d ++ rest) :
    ∃ r, Reaches s { s with srcAddr := BitVec.ofNat 32 a, srcLen := BitVec.ofNat 32 l, dstAddr := BitVec.ofNat 32 d
                            inputs := rest, replies := r } := by
  obtain ⟨r, hsource⟩ := Reaches.of_setSource (rest := setDest d ++ rest) hi h
  obtain ⟨r', hdest⟩ := Reaches.of_setDest
    (s := { s with srcAddr := BitVec.ofNat 32 a, srcLen := BitVec.ofNat 32 l, inputs := setDest d ++ rest
                   replies := r }) hi rfl
  exact ⟨r', hsource.trans hdest⟩

/-- R102: `GRID w, g`, `SRC a, l` and `DST d`. -/
theorem Reaches.of_setGrid_setSource_setDest {s : State} {w g a l d : Nat} {rest : List Input} (hi : s.inflight = none)
    (h : s.inputs = setGrid w g ++ setSource a l ++ setDest d ++ rest) :
    ∃ r, Reaches s { s with gridW := BitVec.ofNat 32 w, gridH := BitVec.ofNat 32 g, srcAddr := BitVec.ofNat 32 a
                            srcLen := BitVec.ofNat 32 l, dstAddr := BitVec.ofNat 32 d, inputs := rest
                            replies := r } := by
  obtain ⟨r, hgrid⟩ := Reaches.of_setGrid (rest := setSource a l ++ setDest d ++ rest) hi h
  obtain ⟨r', hload⟩ := Reaches.of_setSource_setDest
    (s := { s with gridW := BitVec.ofNat 32 w, gridH := BitVec.ofNat 32 g, inputs := setSource a l ++ setDest d ++ rest
                   replies := r }) hi rfl
  exact ⟨r', hgrid.trans hload⟩

/-- R203: the source from `RESULT_LEN`, and `DST d`. -/
theorem Reaches.of_sourceFromResult_setDest {s : State} {tmp : Word} {d : Nat} {rest : List Input}
    (hi : s.inflight = none) (h : s.inputs = .sourceFromResult tmp :: setDest d ++ rest) :
    ∃ r, Reaches s { s with srcAddr := tmp, srcLen := s.resultLen, dstAddr := BitVec.ofNat 32 d, inputs := rest
                            replies := r } := by
  obtain ⟨r, hsource⟩ := Reaches.of_sourceFromResult (rest := setDest d ++ rest) hi h
  obtain ⟨r', hdest⟩ := Reaches.of_setDest
    (s := { s with srcAddr := tmp, srcLen := s.resultLen, inputs := setDest d ++ rest, replies := r }) hi rfl
  exact ⟨r', hsource.trans hdest⟩

/-- Once its operands are loaded, a stage comes to the effect of its command, and the host goes on or leaves out what
the stop-on-error read says. -/
theorem Reaches.stageEnded {s x : State} {i : Instr} {skip : Nat} {rest : List Input} (hx : Reaches s x)
    (hp : x.params = s.params) (hi : x.inflight = none) (hwf : i.wellFormed = true)
    (h : x.inputs = command i :: .stopOnError skip :: rest) :
    ∃ r b l u,
      exec i { x with inflight := some (encode i), done := false, draws := x.draws + 1
                      inputs := .stopOnError skip :: rest, replies := r, pollBudget := b } = .next u
        ∧ StageEnded s { u with inputs := if u.err = .ok then rest else rest.drop skip, replies := l }
            (if u.err = .ok then rest else rest.drop skip) := by
  obtain ⟨r, b, l, u, hexec, hreach⟩ := Reaches.of_command hi (decodeWord_encode hwf) h
  obtain ⟨-, ⟨hparams, -⟩, hidle, -⟩ := exec_frame hexec
  exact ⟨r, b, l, u, hexec, hx.trans hreach, hidle, hparams.trans hp, rfl⟩

section
variable {s : State} {src len dst rows skip : Nat} {rest : List Input}

/-- R201, R202: the stage that encodes. -/
theorem encode_stage (hp : s.params.inRange) (hi : s.inflight = none)
    (h : s.inputs = setSource src len ++ setDest dst ++ command .encode :: .stopOnError skip :: rest)
    (hb : src + len ≤ s.params.bufSize) (hb' : dst + 255 * (len / 255 + 1) ≤ s.params.bufSize)
    (hd : rangesDisjoint src len dst (255 * (len / 255 + 1))) :
    ∃ t, StageEnded s t rest ∧ t.err = .ok ∧ t.gridW = 85 ∧ t.gridH.toNat = len / 255 + 1
      ∧ memRead t dst (255 * (len / 255 + 1)) = encodeBytes (memRead s src len)
      ∧ sameBufferOutside s t dst (255 * (len / 255 + 1)) ∧ t.cipher = s.cipher := by
  obtain ⟨_, hload⟩ := Reaches.of_setSource_setDest hi h
  obtain ⟨r, b, l, u, hexec, hend⟩ := hload.stageEnded rfl hi rfl rfl
  obtain ⟨hok, heffect⟩ := exec_encode_of_operands hexec hp (toNat_ofNat_of_le hp (by omega))
    (toNat_ofNat_of_le hp (by omega)) (toNat_ofNat_of_le hp (by omega)) hb hb' hd
  rw [if_pos hok] at hend
  exact ⟨_, hend, hok, heffect⟩

/-- R203, R204: the stage that decodes a grid that holds the encoding of `x`. -/
theorem decode_stage {x : Bytes} (hp : s.params.inRange) (hi : s.inflight = none) (hrows : rows = x.length / 255 + 1)
    (h : s.inputs = setGrid 85 rows ++ setSource src 0 ++ setDest dst ++ command .decode :: .stopOnError skip :: rest)
    (hg : memRead s src (255 * rows) = encodeBytes x) (hb : src + 255 * rows ≤ s.params.bufSize)
    (hb' : dst + (255 * rows - 1) ≤ s.params.bufSize) (hd : rangesDisjoint src (255 * rows) dst (255 * rows - 1)) :
    ∃ t, StageEnded s t rest ∧ t.succeeded x.length ∧ memRead t dst x.length = x ∧ t.cipher = s.cipher := by
  subst hrows
  obtain ⟨_, hload⟩ := Reaches.of_setGrid_setSource_setDest hi h
  obtain ⟨r, b, l, u, hexec, hend⟩ := hload.stageEnded rfl hi rfl rfl
  obtain ⟨hsucc, heffect⟩ := exec_decode_of_operands hexec hp (toNat_ofNat_of_le hp (by omega))
    (toNat_ofNat_of_le hp (by omega)) rfl (toNat_ofNat_of_le hp (by omega)) hg hb hb' hd
  have ⟨_, _, hok, _⟩ := hsucc
  rw [if_pos hok] at hend
  exact ⟨_, hend, hsucc, heffect⟩

/-- R201: the stage that generates the cipher, whatever the draws answer. -/
theorem generate_stage (hi : s.inflight = none) (h : s.inputs = command .generate :: .stopOnError skip :: rest) :
    ∃ t, StageEnded s t (if t.err = .ok then rest else rest.drop skip)
      ∧ (t.err = .ok → t.cipher.valid = true ∧ t.cipher.encCount = 0)
      ∧ (∀ (key : Vector Byte 32) (nonce : Vector Byte 12) later,
          s.entropyIn = some key.toList :: some nonce.toList :: later →
          t.err = .ok ∧ t.cipher.key = key ∧ t.cipher.nonce = nonce)
      ∧ ∀ a n, memRead t a n = memRead s a n := by
  obtain ⟨r, b, l, u, hexec, hend⟩ := (Reaches.refl s).stageEnded rfl hi rfl h
  obtain ⟨u', hu', hends, hbuf, -⟩ := generateConstructsOrFails _
  cases hexec.symm.trans hu'
  refine ⟨_, hend, fun hok => ?_, fun key nonce later hsettled => ?_, fun a n => ?_⟩
  · rcases hends with ⟨-, hvalid, -, hcount⟩ | ⟨⟨-, -, herr, -⟩, -⟩
    · exact ⟨hvalid, hcount⟩
    · exact absurd (herr.symm.trans hok) (by decide)
  · obtain ⟨v, hv, ⟨-, -, hok, -⟩, -, -, -, hkey, hnonce, -⟩ := generateConstructsCipher
      { s with inflight := some (encode .generate), done := false, draws := s.draws + 1
               inputs := .stopOnError skip :: rest, replies := r, pollBudget := b } _ _ later hsettled
      key.length_toList nonce.length_toList
    cases hexec.symm.trans hv
    exact ⟨hok, Vector.toList_inj.1 hkey, Vector.toList_inj.1 hnonce⟩
  · exact List.map_congr_left fun i _ => hbuf (a + i)

/-- R201: the stage that exports the artifact. -/
theorem export_stage (hp : s.params.inRange) (hi : s.inflight = none)
    (h : s.inputs = setDest dst ++ command .exportArtifact :: .stopOnError skip :: rest)
    (hv : s.cipher.valid = true) (hb : dst + 44 ≤ s.params.bufSize) :
    ∃ t, StageEnded s t rest ∧ memRead t dst 44 = keyArtifact s.cipher ∧ sameBufferOutside s t dst 44
      ∧ t.cipher = s.cipher := by
  obtain ⟨_, hload⟩ := Reaches.of_setDest hi h
  obtain ⟨r, b, l, u, hexec, hend⟩ := hload.stageEnded rfl hi rfl rfl
  obtain ⟨hok, heffect⟩ := exec_export_of_operands hexec (toNat_ofNat_of_le hp (by omega)) hv hb
  rw [if_pos hok] at hend
  exact ⟨_, hend, heffect⟩

/-- R201: the stage that encrypts, whatever `AEAD_SEAL` answers. -/
theorem encrypt_stage {tag : Nat} (hp : s.params.inRange) (htag : s.params.tagLen = tag) (hi : s.inflight = none)
    (h : s.inputs = setSource src len ++ setDest dst ++ command .encrypt :: .stopOnError skip :: rest)
    (hv : s.cipher.valid = true) (hb : src + len ≤ s.params.bufSize) (hb' : dst + (len + tag) ≤ s.params.bufSize)
    (hd : rangesDisjoint src len dst (len + tag)) :
    ∃ t, StageEnded s t (if t.err = .ok then rest else rest.drop skip)
      ∧ ((t.err ≠ .ok ∧ aeadSeal tag s.cipher.key s.cipher.nonce (memRead s src len) = none)
        ∨ (t.err = .ok ∧ t.cipher.encCount.toNat = min (s.cipher.encCount.toNat + 1) 255
          ∧ aeadSeal tag s.cipher.key s.cipher.nonce (memRead s src len) = some (memRead t dst (len + tag))))
      ∧ t.cipher.key = s.cipher.key ∧ t.cipher.nonce = s.cipher.nonce ∧ sameBufferOutside s t dst (len + tag) := by
  obtain ⟨_, hload⟩ := Reaches.of_setSource_setDest hi h
  obtain ⟨r, b, l, u, hexec, hend⟩ := hload.stageEnded rfl hi rfl rfl
  have heffect := exec_encrypt_of_operands hexec hp htag hv (toNat_ofNat_of_le hp (by omega))
    (toNat_ofNat_of_le hp (by omega)) (toNat_ofNat_of_le hp (by omega)) hb hb' hd
  exact ⟨_, hend, heffect⟩

/-- R203: the stage that rebuilds the cipher from the artifact of a slot `c`. -/
theorem fromArtifact_stage {c : CipherSlot} (hp : s.params.inRange) (hi : s.inflight = none)
    (h : s.inputs = setSource src 44 ++ command .fromArtifact :: .stopOnError skip :: rest)
    (hb : src + 44 ≤ s.params.bufSize) (hc : memRead s src 44 = keyArtifact c) :
    ∃ t, StageEnded s t rest ∧ t.cipher.valid = true ∧ t.cipher.key = c.key ∧ t.cipher.nonce = c.nonce
      ∧ ∀ a n, memRead t a n = memRead s a n := by
  obtain ⟨_, hload⟩ := Reaches.of_setSource hi h
  obtain ⟨r, b, l, u, hexec, hend⟩ := hload.stageEnded rfl hi rfl rfl
  obtain ⟨hok, heffect⟩ := exec_fromArtifact_of_operands hexec (toNat_ofNat_of_le hp (by omega)) rfl hb hc
  rw [if_pos hok] at hend
  exact ⟨_, hend, heffect⟩

/-- R203: the stage that decrypts a ciphertext of the reported length that opens to `pt`. -/
theorem decrypt_stage {tag : Nat} {pt : Bytes} (hp : s.params.inRange) (htag : s.params.tagLen = tag)
    (hi : s.inflight = none)
    (h : s.inputs = .sourceFromResult (BitVec.ofNat 32 src) :: setDest dst
      ++ command .decrypt :: .stopOnError skip :: rest)
    (hv : s.cipher.valid = true) (hl : s.resultLen.toNat = len + tag) (hb : src + (len + tag) ≤ s.params.bufSize)
    (hb' : dst + len ≤ s.params.bufSize) (hd : rangesDisjoint src (len + tag) dst len)
    (hopen : aeadOpen tag s.cipher.key s.cipher.nonce (memRead s src (len + tag)) = some pt) :
    ∃ t, StageEnded s t rest ∧ t.succeeded len ∧ memRead t dst len = pt := by
  obtain ⟨_, hload⟩ := Reaches.of_sourceFromResult_setDest hi h
  obtain ⟨r, b, l, u, hexec, hend⟩ := hload.stageEnded rfl hi rfl rfl
  obtain ⟨hsucc, hread⟩ := exec_decrypt_of_operands hexec hp htag hv (toNat_ofNat_of_le hp (by omega)) hl
    (toNat_ofNat_of_le hp (by omega)) hb hb' hd hopen
  have ⟨_, _, hok, _⟩ := hsucc
  rw [if_pos hok] at hend
  exact ⟨_, hend, hsucc, hread⟩

end

/-! ### The round trips (R206, R207) -/

/-- Settles O58: `PLAIN_IMAGE` leaves the encoding of the source, which `PLAIN_OPEN` decodes. -/
theorem plainRoundTripRestoresBytes : Obligations.PlainRoundTripRestoresBytes := by
  intro s src len grid out hp hi hin hsrc hgrid hout hd hd'
  obtain ⟨t, hmade, -, -, -, hread, -⟩ := encode_stage hp hi hin hsrc hgrid (by unfold rangesDisjoint; omega)
  have hx : (memRead s src len).length = len := memRead_length _ _ _
  obtain ⟨u, hopened, hsucc, hbytes, -⟩ := decode_stage (x := memRead s src len) (hmade.params ▸ hp) hmade.idle
    (by rw [hx]) hmade.inputs hread (hmade.params ▸ hgrid) (hmade.params ▸ hout) (by unfold rangesDisjoint; omega)
  rw [hx] at hsucc hbytes
  obtain ⟨⟨k, hrun⟩, -, -, hend⟩ := hmade.trans hopened
  exact ⟨k, u, hrun, hend, hsucc, hbytes⟩

/-- R201: operands of `SEAL_IMAGE` on a block with parameters `p`: its ranges lie in the buffer, and those that must not
overlap share no byte. -/
structure SealOperands (p : Params) (tag rows src len tmp grid art : Nat) : Prop where
  inRange : p.inRange
  tagLen : p.tagLen = tag
  rowCount : rows = (len + tag) / 255 + 1
  srcFits : src + len ≤ p.bufSize
  tmpFits : tmp + (len + tag) ≤ p.bufSize
  gridFits : grid + 255 * rows ≤ p.bufSize
  artFits : art + 44 ≤ p.bufSize
  srcApartTmp : rangesDisjoint src len tmp (len + tag)
  srcApartArt : rangesDisjoint src len art 44
  tmpApartGrid : rangesDisjoint tmp (len + tag) grid (255 * rows)
  tmpApartArt : rangesDisjoint tmp (len + tag) art 44
  gridApartArt : rangesDisjoint grid (255 * rows) art 44

/-- R201: what `SEAL_IMAGE` of the bytes `pt` leaves when it ends without error. -/
structure SealedImage (t : State) (tag rows grid art : Nat) (pt : Bytes) : Prop where
  gridW : t.gridW = 85
  gridH : t.gridH.toNat = rows
  encCount : t.cipher.encCount = 1
  artifact : memRead t art 44 = keyArtifact t.cipher
  ciphertext : ∃ ct, aeadSeal tag t.cipher.key t.cipher.nonce pt = some ct
    ∧ memRead t grid (255 * rows) = encodeBytes ct

/-- R203: operands of `OPEN_IMAGE` on a block with parameters `p`, for an image of `len` bytes. -/
structure OpenOperands (p : Params) (tag rows grid len art tmp out : Nat) : Prop where
  inRange : p.inRange
  tagLen : p.tagLen = tag
  rowCount : rows = (len + tag) / 255 + 1
  gridFits : grid + 255 * rows ≤ p.bufSize
  artFits : art + 44 ≤ p.bufSize
  tmpFits : tmp + (255 * rows - 1) ≤ p.bufSize
  outFits : out + len ≤ p.bufSize
  gridApartTmp : rangesDisjoint grid (255 * rows) tmp (255 * rows - 1)
  tmpApartOut : rangesDisjoint tmp (len + tag) out len

section
variable {s : State} {tag rows src len tmp grid art : Nat}

/-- R201: from a new cipher whose artifact is written, the stages after `EXPORT` leave a sealed image, or end with an
error if `AEAD_SEAL` does not answer. -/
theorem seal_stages (ho : SealOperands s.params tag rows src len tmp grid art) (hi : s.inflight = none)
    (h : s.inputs = stoppingOnError [setSource src len ++ setDest tmp ++ [command .encrypt],
      setSource tmp (len + tag) ++ setDest grid ++ [command .encode]])
    (hv : s.cipher.valid = true) (hcount : s.cipher.encCount = 0) (hart : memRead s art 44 = keyArtifact s.cipher) :
    ∃ t, StageEnded s t []
      ∧ ((t.err ≠ .ok ∧ aeadSeal tag s.cipher.key s.cipher.nonce (memRead s src len) = none)
        ∨ (t.err = .ok ∧ SealedImage t tag rows grid art (memRead s src len))) := by
  obtain ⟨t, henc, hseal, hkey, hnonce, hbuf⟩ :=
    encrypt_stage ho.inRange ho.tagLen hi h hv ho.srcFits ho.tmpFits ho.srcApartTmp
  rcases hseal with ⟨herr, hnone⟩ | ⟨hok, hcount', hsome⟩
  · rw [if_neg herr] at henc
    exact ⟨t, henc, .inl ⟨herr, hnone⟩⟩
  · rw [if_pos hok] at henc
    have ho' := henc.params.symm ▸ ho
    obtain rfl := ho.rowCount
    obtain ⟨u, himg, hok', hgridW, hgridH, hread, hbuf', hcipher⟩ :=
      encode_stage ho'.inRange henc.idle henc.inputs ho'.tmpFits ho'.gridFits ho'.tmpApartGrid
    refine ⟨u, henc.trans himg, .inr ⟨hok', hgridW, hgridH, ?_, ?_, _, ?_, hread⟩⟩
    · rw [hcount] at hcount'
      exact BitVec.eq_of_toNat_eq (hcipher ▸ hcount')
    · rw [memRead_of_sameBufferOutside hbuf' ho.gridApartArt.symm,
        memRead_of_sameBufferOutside hbuf ho.tmpApartArt.symm, hart, hcipher, keyArtifact_congr hkey hnonce]
    · rw [hcipher, hkey, hnonce, hsome]

/-- R201: `SEAL_IMAGE` runs to its end. Without an error it leaves a sealed image, and with settled draws (log 3) and a
seal that answers there is no error. -/
theorem sealImage_ends (ho : SealOperands s.params tag rows src len tmp grid art) (hi : s.inflight = none)
    (h : s.inputs = sealImage tag src len tmp grid art) :
    ∃ t, StageEnded s t []
      ∧ (∀ (key : Vector Byte 32) (nonce : Vector Byte 12) later ct,
          s.entropyIn = some key.toList :: some nonce.toList :: later →
          aeadSeal tag key nonce (memRead s src len) = some ct → t.err = .ok)
      ∧ (t.err = .ok → SealedImage t tag rows grid art (memRead s src len)) := by
  obtain ⟨t, hgen, hslot, hsettled, hbuf⟩ := generate_stage hi h
  by_cases hok : t.err = .ok
  · rw [if_pos hok] at hgen
    obtain ⟨hv, hcount⟩ := hslot hok
    have ho' := hgen.params.symm ▸ ho
    obtain ⟨u, hexp, hart, hbuf', hcipher⟩ := export_stage ho'.inRange hgen.idle hgen.inputs hv ho'.artFits
    have hmid := hgen.trans hexp
    obtain ⟨v, hend, hseal⟩ := seal_stages (hmid.params.symm ▸ ho) hmid.idle hmid.inputs (hcipher ▸ hv)
      (hcipher ▸ hcount) (hcipher.symm ▸ hart)
    rw [memRead_of_sameBufferOutside hbuf' ho.srcApartArt, hbuf, hcipher] at hseal
    refine ⟨v, hmid.trans hend, fun key nonce later ct hdraws hct => ?_, fun hok' => ?_⟩
    · obtain ⟨-, rfl, rfl⟩ := hsettled key nonce later hdraws
      rcases hseal with ⟨-, hnone⟩ | ⟨hok', -⟩
      · simp [hnone] at hct
      · exact hok'
    · rcases hseal with ⟨herr, -⟩ | ⟨-, himage⟩
      · exact absurd hok' herr
      · exact himage
  · rw [if_neg hok] at hgen
    refine ⟨t, hgen, fun key nonce later ct hdraws _ => ?_, fun hok' => absurd hok' hok⟩
    obtain ⟨hok', -⟩ := hsettled key nonce later hdraws
    exact hok'

/-- R203, R206: `OPEN_IMAGE` of the grid and artifact bytes of a sealed image restores the bytes that were sealed. -/
theorem openImage_restores {t : State} {grid₀ art₀ out : Nat} {pt : Bytes}
    (ho : OpenOperands s.params tag rows grid len art tmp out) (hi : s.inflight = none)
    (h : s.inputs = openImage grid 85 rows art tmp out) (himage : SealedImage t tag rows grid₀ art₀ pt)
    (hpt : pt.length = len) (hg : memRead s grid (255 * rows) = memRead t grid₀ (255 * rows))
    (ha : memRead s art 44 = memRead t art₀ 44) :
    ∃ u, StageEnded s u [] ∧ u.succeeded len ∧ memRead u out len = pt := by
  obtain ⟨-, -, -, hartifact, ct, hseal, hencoding⟩ := himage
  have hct : ct.length = len + tag := by rw [aeadSeal_length hseal, hpt]
  have hrows := ho.rowCount
  obtain ⟨v, hbuilt, hv, hkey, hnonce, hbuf⟩ := fromArtifact_stage ho.inRange hi h ho.artFits (ha.trans hartifact)
  have ho' := hbuilt.params.symm ▸ ho
  obtain ⟨w, hdec, ⟨-, -, -, -, hlen⟩, hread, hcipher⟩ := decode_stage (x := ct) ho'.inRange hbuilt.idle
    (by rw [hct, hrows]) hbuilt.inputs ((hbuf _ _).trans (hg.trans hencoding)) ho'.gridFits ho'.tmpFits ho'.gridApartTmp
  have hmid := hbuilt.trans hdec
  have hw := hmid.params.symm ▸ ho
  have htmp := hw.tmpFits
  have hopen : aeadOpen tag w.cipher.key w.cipher.nonce (memRead w tmp (len + tag)) = some pt := by
    rw [← hct, hread, hcipher, hkey, hnonce, aeadOpen_of_aeadSeal hseal]
  obtain ⟨u, hend, hresult⟩ := decrypt_stage hw.inRange hw.tagLen hmid.idle hmid.inputs (hcipher ▸ hv)
    (hct ▸ hlen) (by omega) hw.outFits hw.tmpApartOut hopen
  exact ⟨u, hmid.trans hend, hresult⟩

end

/-- Settles O59: what `SEAL_IMAGE` leaves without an error is the encoding of a ciphertext and the artifact of its slot,
from which `OPEN_IMAGE` gets the plaintext back. -/
theorem sealedRoundTripRestoresBytes : Obligations.SealedRoundTripRestoresBytes := by
  intro s src len tmp grid art tag rows hp hi htag hrows hin hsrc htmp hgrid hart hd₁ hd₂ hd₃ hd₄ hd₅
  obtain ⟨t, ⟨⟨k, hrun⟩, hidle, -, hinputs⟩, hsettled, hsealed⟩ :=
    sealImage_ends ⟨hp, htag.symm, hrows, hsrc, htmp, hgrid, hart, hd₁, hd₂, hd₃, hd₄, hd₅⟩ hi hin
  refine ⟨k, t, hrun, hinputs, hidle, hsettled, fun hok => ?_⟩
  have himage := hsealed hok
  refine ⟨himage.gridW, himage.gridH, himage.encCount, himage.artifact, ?_⟩
  intro s' grid' art' tmp' out hp' htag' hi' hin' hg ha hgrid' hart' htmp' hout hd hd'
  obtain ⟨u, ⟨⟨k', hrun'⟩, -, -, hinputs'⟩, hresult⟩ := openImage_restores
    ⟨hp', htag', hrows, hgrid', hart', htmp', hout, hd, hd'⟩ hi' hin' himage (memRead_length _ _ _) hg ha
  exact ⟨k', u, hrun', hinputs', hresult⟩

end Sys2Proof.Machine
end

section
/-! PROOFS. The exceptions (R230 to R247): the bounds in the order of R230, what a failing command leaves alone, and the
cipher that fresh entropy gives. -/

namespace Sys2Proof.Machine

/-! ### The bounds (R230 steps 4 to 6) -/

/-- R230: a command that passes steps 1 to 3 reports the first bound it breaks. -/
theorem exec_of_boundsCause {i : Instr} {s : State} {c : Cause} (hwf : i.wellFormed = true)
    (hcipher : cipherError i s = none) (hshape : shapeError i s = none) (h : boundsCause i s = some c) :
    exec i s = .next (s.afterError .bounds c) := by
  refine exec_of_register_error ?_
  rw [registerError, operandError, if_pos hwf, hcipher, hshape, boundsError, h]
  rfl

/-- R231: a source past the buffer breaks the first bound. -/
theorem boundsCause_srcRange {i : Instr} {s : State} {l : Nat} (hl : sourceLength i s = some l)
    (h : s.params.bufSize < s.src + l) : boundsCause i s = some .srcRange := by
  cases hm : outMax i s <;> simp [boundsCause, hl, hm, checkSource, h]

/-- R232: a destination past the buffer breaks the first bound of a command with no source. -/
theorem boundsCause_dstRange_of_no_source {i : Instr} {s : State} {m : Nat} (hl : sourceLength i s = none)
    (hm : outMax i s = some m) (h : s.params.bufSize < s.dst + m) : boundsCause i s = some .dstRange := by
  simp [boundsCause, hl, hm, checkDest, h]

section
variable {i : Instr} {s : State} {l m : Nat} (hl : sourceLength i s = some l) (hm : outMax i s = some m)
  (hsrc : s.src + l ≤ s.params.bufSize)
include hl hm hsrc

/-- R232: with the source in bounds, a destination past the buffer breaks the second bound. -/
theorem boundsCause_dstRange (h : s.params.bufSize < s.dst + m) : boundsCause i s = some .dstRange := by
  simp [boundsCause, hl, hm, checkSource_eq_none.2 hsrc, checkDest, h]

/-- R233: two ranges in bounds that share a byte break the third bound. -/
theorem boundsCause_overlap (hdst : s.dst + m ≤ s.params.bufSize)
    (h : 0 < l ∧ 0 < m ∧ s.src < s.dst + m ∧ s.dst < s.src + l) : boundsCause i s = some .overlap := by
  rw [boundsCause, hl, hm]
  simp only [checkSource_eq_none.2 hsrc, checkDest_eq_none.2 hdst, Option.none_or, checkOverlap, if_pos h]

end

/-- R230 to R233: a command with a source and a destination that passes steps 1 to 3 reports the source bound, then the
destination bound, then the overlap. -/
theorem exec_reports_bounds {i : Instr} {s : State} {l m : Nat}
    (hpass : i.wellFormed = true ∧ cipherError i s = none ∧ shapeError i s = none)
    (hl : sourceLength i s = some l) (hm : outMax i s = some m) :
    (s.params.bufSize < s.src + l → exec i s = .next (s.afterError .bounds .srcRange))
      ∧ (s.src + l ≤ s.params.bufSize → s.params.bufSize < s.dst + m →
          exec i s = .next (s.afterError .bounds .dstRange))
      ∧ (s.src + l ≤ s.params.bufSize → s.dst + m ≤ s.params.bufSize → 0 < l → 0 < m → s.src < s.dst + m →
          s.dst < s.src + l → exec i s = .next (s.afterError .bounds .overlap)) := by
  obtain ⟨hwf, hcipher, hshape⟩ := hpass
  exact ⟨fun h => exec_of_boundsCause hwf hcipher hshape (boundsCause_srcRange hl h),
    fun hsrc h => exec_of_boundsCause hwf hcipher hshape (boundsCause_dstRange hl hm hsrc h),
    fun hsrc hdst hl0 hm0 ha hd =>
      exec_of_boundsCause hwf hcipher hshape (boundsCause_overlap hl hm hsrc hdst ⟨hl0, hm0, ha, hd⟩)⟩

/-- Settles O14: each command passes steps 1 to 3, and its two ranges are those of R97 and R232. -/
theorem boundsErrorsReported : Obligations.BoundsErrorsReported := by
  refine fun s => ⟨?_, fun hlen h => ?_, fun hlen h => ?_, fun hv h => ?_⟩
  · rintro i l m (⟨n, rfl, hn, hlen, rfl, rfl⟩ | ⟨n, rfl, hn, hlen, rfl, rfl⟩ | ⟨rfl, rfl, rfl⟩ |
      ⟨rfl, hw, hh, rfl, rfl⟩ | ⟨rfl, hv, rfl, rfl⟩ | ⟨rfl, hv, rfl, rfl⟩)
    · exact exec_reports_bounds ⟨bne_iff_ne.2 hn, rfl, by simpa [shapeError, errorIf] using hlen⟩ rfl rfl
    · exact exec_reports_bounds ⟨bne_iff_ne.2 hn, rfl, by simpa [shapeError, errorIf] using hlen⟩ rfl rfl
    · exact exec_reports_bounds ⟨rfl, rfl, rfl⟩ rfl rfl
    · exact exec_reports_bounds ⟨rfl, rfl, shapeError_decode_none hw hh⟩ rfl rfl
    · exact exec_reports_bounds ⟨rfl, cipherError_of_valid _ hv, rfl⟩ rfl rfl
    · refine exec_reports_bounds ⟨rfl, cipherError_of_valid _ hv, rfl⟩ rfl (congrArg some ?_)
      split <;> omega
  · exact exec_of_boundsCause rfl rfl (by simp [shapeError, errorIf, hlen]) (boundsCause_srcRange rfl h)
  · exact exec_of_boundsCause rfl rfl (by simp [shapeError, errorIf, hlen]) (boundsCause_srcRange rfl h)
  · exact exec_of_boundsCause rfl (cipherError_of_valid _ hv) rfl (boundsCause_dstRange_of_no_source rfl rfl h)

/-! ### What a failing command leaves alone (R234 to R236) -/

/-- A command that ends with an error, of its registers or of its data, has changed only what `BodyFailed` lists. -/
theorem exec_failed {i : Instr} {s t : State} (h : exec i s = .next t) (herr : t.err ≠ .ok) : BodyFailed i s t := by
  rcases exec_cases h with ⟨e, c, hr, rfl⟩ | ⟨hr, rfl⟩
  · obtain ⟨hlegal, -⟩ := registerError_legal hr
    exact bodyFailed_of_draws s.draws s.entropyIn e c hlegal
  · rcases commandBody_ends i s hr with ⟨-, hb⟩ | ⟨hok, -⟩
    · exact hb
    · exact absurd hok herr

/-- R234: a failing command changes no byte outside its destination range. -/
theorem BodyFailed.readByte_outside {i : Instr} {s t : State} (hb : BodyFailed i s t) {a : Nat}
    (ha : ∀ m, outMax i s = some m → a < s.dst ∨ s.dst + m ≤ a) : t.readByte a = s.readByte a := by
  rcases hb.buffer with ⟨hsame, -⟩ | ⟨m, -, hm, -, -, houtside, -⟩
  · exact hsame a
  · exact houtside a (ha m hm)

/-- R234: an error that is not one of the data changes no byte. -/
theorem BodyFailed.sameBuffer_of_err {i : Instr} {s t : State} (hb : BodyFailed i s t)
    (he : t.err ∈ [ErrCode.illegalCommand, .noCipher, .length, .bounds, .entropyError]) : sameBuffer s t := by
  rcases hb.buffer with ⟨hsame, -⟩ | ⟨-, -, -, -, -, -, hdata⟩
  · exact hsame
  · exact absurd he hdata

/-- Settles O15: the engine's step fails in a command, which leaves what `BodyFailed` says, or rejects a word, which
changes the status alone. -/
theorem failingCommandChangesOnlyStatus : Obligations.FailingCommandChangesOnlyStatus := by
  refine ⟨fun s t w hw h herr => ?_, fun s t i h herr => ?_⟩
  · obtain ⟨-, -, hops, hout⟩ := engine_step_frame hw h
    rcases engine_step_cases hw h with ⟨i, hd, he⟩ | ⟨why, -, rfl⟩
    · have hb := exec_failed he herr
      exact ⟨hb.status, hops, hb.grid, hb.cipher, hout, fun why hd' => by simp [hd] at hd'⟩
    · exact ⟨⟨rfl, rfl, rfl, rfl, rfl⟩, hops, ⟨rfl, rfl⟩, rfl, hout, fun _ _ _ => rfl⟩
  · have hb := exec_failed h herr
    exact ⟨fun a ha => hb.readByte_outside fun m hm => by simpa only [hm] using ha, hb.sameBuffer_of_err⟩

/-! ### The cipher of fresh entropy (R165, R247) -/

/-- `r` with a key and a nonce settled as the next two answers of the entropy source, before all others. -/
def State.withDraws (r : State) (key : Vector Byte 32) (nonce : Vector Byte 12) : State :=
  { r with entropyIn := some key.toList :: some nonce.toList :: r.entropyIn }

/-- `GENERATE` on `s` constructs a cipher of this key and this nonce. -/
def State.generates (s : State) (key : Vector Byte 32) (nonce : Vector Byte 12) : Prop :=
  ∃ t, exec .generate s = .next t ∧ t.err = .ok ∧ t.cipher.key = key ∧ t.cipher.nonce = nonce

/-- An answer of the entropy source that is taken is settled as just those bytes (log 3). -/
theorem eq_some_of_entropyAnswer {n : Nat} {answer : Option Bytes} {v : Vector Byte n}
    (h : entropyAnswer n answer = some v) : answer = some v.toList := by
  unfold entropyAnswer at h
  split at h
  · cases h
  · split at h
    · cases h
      simp [Vector.toList]
    · cases h

/-- The rest of the state is what is left when the two answers are taken away. -/
theorem withDraws_injective (key : Vector Byte 32) (nonce : Vector Byte 12) :
    Function.Injective fun r : State => r.withDraws key nonce :=
  Function.LeftInverse.injective (g := fun s : State => { s with entropyIn := s.entropyIn.drop 2 }) fun _ => rfl

/-- R165: `GENERATE` takes the two settled answers. -/
theorem generates_withDraws (r : State) (key : Vector Byte 32) (nonce : Vector Byte 12) :
    (r.withDraws key nonce).generates key nonce := by
  obtain ⟨t, ht, ⟨-, -, hok, -⟩, -, -, -, hkey, hnonce, -⟩ :=
    generateConstructsCipher (r.withDraws key nonce) _ _ _ rfl (by simp) (by simp)
  exact ⟨t, ht, hok, Vector.toList_inj.1 hkey, Vector.toList_inj.1 hnonce⟩

/-- R165: where two answers are settled, `GENERATE` constructs a cipher of no other key and nonce. -/
theorem eq_withDraws_of_generates {s : State} {key : Vector Byte 32} {nonce : Vector Byte 12}
    (h : s.generates key nonce) (hlen : 2 ≤ s.entropyIn.length) : ∃ r : State, r.withDraws key nonce = s := by
  obtain ⟨t, ht, hok, rfl, rfl⟩ := h
  obtain ⟨key, nonce, hk, hn, hslot, -⟩ := generate_constructs ht hok
  match hin : s.entropyIn, hlen with
  | answer :: answer' :: later, _ =>
    rw [drawEntropy_of_settled 32 hin] at hk hn
    rw [drawEntropy_of_settled 12 rfl] at hn
    refine ⟨{ s with entropyIn := later }, ?_⟩
    rw [State.withDraws, hslot, ← eq_some_of_entropyAnswer hk, ← eq_some_of_entropyAnswer hn, ← hin]

/-- R247: given the rest of the state, every key and nonce is as likely as every other: the two answers are exchanged
one after the other. -/
theorem EntropyFresh.apply_withDraws {μ : PMF State} (h : EntropyFresh 2 μ) (r : State)
    (key key' : Vector Byte 32) (nonce nonce' : Vector Byte 12) :
    μ (r.withDraws key nonce) = μ (r.withDraws key' nonce') := by
  obtain ⟨-, hswap⟩ := h
  have hkey : μ (r.withDraws key' nonce) = μ (r.withDraws key nonce) :=
    hswap (r.withDraws key nonce) 0 key.toList key'.toList (by decide) rfl (by simp)
  have hnonce : μ (r.withDraws key' nonce') = μ (r.withDraws key' nonce) :=
    hswap (r.withDraws key' nonce) 1 nonce.toList nonce'.toList (by decide) rfl (by simp)
  rw [hnonce, hkey]

/-- R165: how likely a key and a nonce are, jointly with a condition on the rest of the state: the sum over every rest
that meets the condition. -/
theorem toOuterMeasure_generates {μ : PMF State} (h : EntropyFresh 2 μ) (rest : State → Prop)
    (key : Vector Byte 32) (nonce : Vector Byte 12) :
    μ.toOuterMeasure { s | rest { s with entropyIn := s.entropyIn.drop 2 } ∧ s.generates key nonce }
      = ∑' r, { r | rest r }.indicator (fun r => μ (r.withDraws key nonce)) r := by
  obtain ⟨hlen, -⟩ := h
  have hpre : (fun r => r.withDraws key nonce) ⁻¹'
      { s | rest { s with entropyIn := s.entropyIn.drop 2 } ∧ s.generates key nonce } = { r | rest r } :=
    Set.ext fun r => and_iff_left (generates_withDraws r key nonce)
  rw [PMF.toOuterMeasure_apply, ← (withDraws_injective key nonce).tsum_eq, ← hpre]
  · exact tsum_congr fun r => (Set.indicator_comp_right fun r : State => r.withDraws key nonce).symm
  · intro s hs
    rw [Set.support_indicator] at hs
    obtain ⟨⟨-, hgen⟩, hpos⟩ := hs
    exact eq_withDraws_of_generates hgen (hlen s hpos)

/-- Settles O25: each side is the sum over the rests of the state that meet the condition, and fresh entropy makes every
term the same for both ciphers. -/
theorem freshEntropyGivesUniformCipher : Obligations.FreshEntropyGivesUniformCipher := by
  intro μ rest key key' nonce nonce' h generated
  calc μ.toOuterMeasure (generated key nonce)
      = ∑' r, { r | rest r }.indicator (fun r => μ (r.withDraws key nonce)) r :=
        toOuterMeasure_generates h rest key nonce
    _ = ∑' r, { r | rest r }.indicator (fun r => μ (r.withDraws key' nonce')) r := by
        simp only [h.apply_withDraws _ key key' nonce nonce']
    _ = μ.toOuterMeasure (generated key' nonce') := (toOuterMeasure_generates h rest key' nonce').symm

end Sys2Proof.Machine
end

section
/-! PROOFS. Reset (R260 to R262): the values it leaves in the block, at power-on and later, and that it is performed
whether or not a command is in flight. -/

namespace Sys2Proof.Machine

/-! ### The values of reset -/

/-- R260: what the host and the engine find in the block after reset: registers, status words and slot of zeros, no
command in flight, no bus fault. -/
def State.hasResetValues (t : State) : Prop :=
  t.srcAddr = 0 ∧ t.srcLen = 0 ∧ t.dstAddr = 0 ∧ t.resultLen = 0 ∧ t.gridW = 0 ∧ t.gridH = 0
    ∧ statusWord t = 0 ∧ cipherStatusWord t = 0 ∧ t.busy = false ∧ t.done = false ∧ t.cipher.valid = false
    ∧ t.cipher.origin = .none ∧ t.cipher.encCount = 0 ∧ t.cipher.key.toList = List.replicate 32 0
    ∧ t.cipher.nonce.toList = List.replicate 12 0 ∧ t.inflight = none ∧ t.busFault = false

/-- R28, R221: with no command in flight or done and no error, `STATUS` reads 0. -/
theorem statusWord_eq_zero {t : State} (hi : t.inflight = none) (hd : t.done = false) (he : t.err = .ok)
    (hc : t.cause = .none) : statusWord t = 0 := by
  rw [statusWord, State.busy, hi, hd, he, hc]
  rfl

/-- R39: with an empty slot, `CIPHER_STATUS` reads 0. -/
theorem cipherStatusWord_eq_zero {t : State} (h : t.cipher = CipherSlot.empty) : cipherStatusWord t = 0 := by
  rw [cipherStatusWord, h]
  rfl

/-- R24: the constant word of `CONFIG0`. -/
theorem config0Word_eq : config0Word = 0x0C2055FF := rfl

/-- R260: the values of reset, whatever stands in the parameters and in the fields that are the model's own. -/
theorem hasResetValues_of_reset (params : Params) (epoch draws budget : Nat) (entropyIn : List (Option Bytes))
    (inputs : List Input) (replies : List Reply) :
    State.hasResetValues { State.reset with
      params := params, bufEpoch := epoch, draws := draws, pollBudget := budget, entropyIn := entropyIn,
      inputs := inputs, replies := replies } :=
  ⟨rfl, rfl, rfl, rfl, rfl, rfl, statusWord_eq_zero rfl rfl rfl rfl, cipherStatusWord_eq_zero rfl, rfl, rfl, rfl, rfl,
    rfl, Vector.toList_replicate, Vector.toList_replicate, rfl, rfl⟩

/-! ### The reset input -/

/-- R260, R262: the reset input, where it may come next, resets the block; a command in flight is not executed. -/
theorem step_of_reset {s : State} {rest : List Input} (hin : s.inputs = .reset :: rest)
    (hb : s.inflight = none ∨ 0 < s.pollBudget) :
    ∃ budget, step s = .next { resetBlock { s with inputs := rest } with pollBudget := budget } := by
  obtain ⟨-, hfirst⟩ := resetNext_iff.1 ⟨by rw [hin]; rfl, hb⟩
  rcases s.inflight.eq_none_or_eq_some with hidle | ⟨w, hi⟩
  · exact ⟨_, by rw [step_of_idle hidle, performInput_reset hin]⟩
  · have hfirst : hostGoesFirst s = true := hfirst.resolve_left (by simp [hi])
    exact ⟨_, by rw [step_of_hostFirst hi hfirst, performInput_reset hin]⟩

/-- Settles O47: both the power-on state and the state after the reset input are `State.reset` up to what stands outside
the block and the model's own fields. -/
theorem resetLeavesStatedValues : Obligations.ResetLeavesStatedValues := by
  refine ⟨hasResetValues_of_reset _ _ _ _ _ _ _, fun s rest hin hb => ?_⟩
  obtain ⟨budget, hstep⟩ := step_of_reset hin hb
  exact ⟨_, hstep, hasResetValues_of_reset _ _ _ _ _ _ _, config0Word_eq, rfl, rfl, rfl⟩

end Sys2Proof.Machine
end
